-- ==== Sys2Proof/Word.lean ====
section
/-! DEFINITION. The byte, the one datum of the core (00_scope.md R8, R9), and the widening of a value (R9). -/

namespace Sys2Proof

/-- A byte: an unsigned 8-bit value, 0..255 (00 R9). Every queue entry, opcode, operand, cell and announced
value is one (20 R55). -/
abbrev Byte := BitVec 8

/-- `zext_n(v)`: widen by zero bits at the top (00 R9). -/
def zext (n : Nat) (v : Byte) : BitVec n := v.setWidth n

end Sys2Proof
end

