-- ==== Sys2Proof/Config.lean ====
section
/-! DEFINITION. What is fixed for one core: the parameters of 00_scope.md R8. A parameter the spec leaves OPEN is an
opaque constant: no proof can see its value, so a claim holds whatever it is. -/

namespace Sys2Proof

/-- The values `QUEUE_DEPTH` may take: "a natural number at least 1, or unbounded" (00 R8, 92 D11).
`bounded n` is a depth of `n + 1` bytes, so that no depth is 0. -/
inductive QueueDepth where
  | unbounded
  | bounded (n : Nat)
deriving DecidableEq, Repr, Inhabited

/-- `MEM_SIZE`, the number of memory cells (00 R8). -/
def Config.memSize : Nat := 256

/-- `mem0`, the memory contents after a reset (00 R8, OPEN; 92 D3): for each launch (the number of resets so far,
since "each reset takes a fresh value") and each address, a byte the spec leaves unspecified.
DESIGN CHOICE (log entry 4), safe: a free value. -/
opaque Config.mem0 : Nat → Byte → Byte

/-- `QUEUE_DEPTH`, the queue's capacity (00 R8, OPEN; 92 D11). DESIGN CHOICE (log entry 7), safe: a free value. -/
opaque Config.queueDepth : QueueDepth

/-- `POS_WIDTH`, the width of the hardware's position counter and of the `fpos` port (00 R8, OPEN; 92 D10).
DESIGN CHOICE (log entry 8): a free value. -/
opaque Config.posWidth : Nat

end Sys2Proof
end

