-- ==== Sys2Proof/Machine/State.lean ====
section
/-! DEFINITION. The state of the core and its environment as plain data (10_state.md), the reasons a step can stop, and
the state right after reset (10 R34, 70_reset_and_hazards.md R200). -/

namespace Sys2Proof.Machine

/-- The six values of `FSM` (10 R22). The codes 6 and 7 "are never taken", so no value stands for them. -/
inductive Fsm where
  | idle
  | fetch
  | opnd
  | exec
  | sayWait
  | fault
deriving DecidableEq, Repr

/-- The values of `FKIND` (10 R28, 60 R170): `noFault` is NONE. -/
inductive FaultKind where
  | noFault
  | unknownOpcode
  | starvedOperand
  | outOfRangeAddress
  | arithmeticOverflow
deriving DecidableEq, Repr

/-- One agent's turn (40 R100): whose atomic step is next. -/
inductive Turn where
  /-- The core's own step (40 R109). -/
  | fsm
  /-- The producer offers the oldest byte of `offers` (40 R110, R111). -/
  | producer
  /-- The controller issues run (40 R102, R114). -/
  | run
  /-- The sink confirms completion (40 R112). -/
  | sink
  /-- The controller asserts reset (40 R113, 70 R200). -/
  | reset
deriving DecidableEq, Repr

/-- What the model stops with for a reason of the machine. It has no constructor: every fault the core detects is a
next state, in FAULT with its record written (60 R172, log entry 13), and no other condition of the spec stops the core. -/
inductive Fault where
deriving DecidableEq, Repr

/-- What the model gives no meaning to. -/
inductive Refusal where
  /-- Raised by a dispatch arm whose instruction has no meaning yet; safe. No arm raises it now. -/
  | notModelled (mnemonic : String)
  /-- Raised by the operand and EXEC steps when `OP` holds a byte outside the opcode table, which no run reaches
  (40 R109: "In EXEC, `OP` is always one of the four opcodes"; 93 I12: "a model state holding one is ill-formed");
  safe (log entry 10). -/
  | illFormedState
deriving DecidableEq, Repr

/-- Everything the spec gives the machine (10 R22 to R34), the environment's record and pending actions (10 R33,
40 R100), and the model's own fields, marked below. -/
structure State where
  /-- `FSM` (10 R22). -/
  fsm : Fsm
  /-- `Q`, the instruction queue, oldest byte first (10 R23). -/
  q : List Byte
  /-- `OP`, opcode byte of the instruction in progress (10 R25). -/
  op : Byte
  /-- `A`, first operand byte (10 R25). -/
  a : Byte
  /-- `B`, second operand byte (10 R25). -/
  b : Byte
  /-- `K`, operand bytes collected so far (10 R25). -/
  k : Nat
  /-- `ISTART`, stream position of the opcode byte (10 R25). -/
  istart : Nat
  /-- `SAYV`, the value announced by the SAY in progress (10 R25). -/
  sayv : Byte
  /-- `CNT`, bytes popped since reset (10 R26). -/
  cnt : Nat
  /-- `FKIND` (10 R28). -/
  fkind : FaultKind
  /-- `FOP` (10 R28). -/
  fop : Byte
  /-- `FPOS` (10 R28). -/
  fpos : Nat
  /-- `MEM` (10 R30): the cells written since the last reset, addresses strictly rising. An address not listed has no
  byte here and reads as the launch's draw `Config.mem0` (log entries 4 and 5). -/
  mem : List Host.Cell
  /-- `ANN`, the values passed to announce, the sink's record (10 R33). -/
  ann : List Byte
  /-- The producer's bytes not accepted yet, oldest first (`enq_valid`, `enq_data` of 10 R31; log entry 3). -/
  offers : List Byte
  /-- The model's own: the agents' turns still to come (40 R100, log entry 1). -/
  turns : List Turn
  /-- The model's own: how many resets there have been, which picks the draw `mem0` (92 D3, log entry 4). -/
  launch : Nat
  /-- The model's own: the length of `ANN` at the last reset (10 R33, log entry 9). -/
  annBase : Nat
  /-- The model's own: the parameter `QUEUE_DEPTH` (00 R8, log entry 7). No step changes it. -/
  depth : QueueDepth
deriving DecidableEq, Repr

/-- The machine right after reset (10 R34, 70 R200): IDLE, empty queue, counters 0, no fault, memory with nothing
listed. The latches, `FOP` and `FPOS`, which the spec leaves unspecified, are 0 (DESIGN CHOICE, log entry 6). -/
def State.reset : State where
  fsm := .idle
  q := []
  op := 0
  a := 0
  b := 0
  k := 0
  istart := 0
  sayv := 0
  cnt := 0
  fkind := .noFault
  fop := 0
  fpos := 0
  mem := []
  ann := []
  offers := []
  turns := []
  launch := 0
  annBase := 0
  depth := Config.queueDepth

end Sys2Proof.Machine
end

