-- ==== Sys2Proof/Machine/Ops.lean ====
section
/-! DEFINITION. The named operations over memory and registers: the primitives of 00_scope.md R10. Memory accesses
(20_memory.md R51, R52), `goto`, `pop` (40_fetch_decode_dispatch.md R103), `announce` (60_exceptions.md R186), fault
entry (60 R172), and reset (70_reset_and_hazards.md R200), the only way out of a fault. -/

namespace Sys2Proof.Machine

/-- The byte listed at an address, if the cell was written since the last reset. -/
def Memory.lookup : List Host.Cell → Nat → Option Byte
  | [], _ => none
  | (k, v) :: rest, a => if k = a then some v else Memory.lookup rest a

/-- The list with the byte `v` at address `a`, kept in address order. -/
def Memory.insert (a : Nat) (v : Byte) : List Host.Cell → List Host.Cell
  | [] => [(a, v)]
  | (k, w) :: rest =>
    if a < k then (a, v) :: (k, w) :: rest
    else if a = k then (a, v) :: rest
    else (k, w) :: Memory.insert a v rest

/-- The canonical form: addresses strictly rising, each below `MEM_SIZE`. An unlisted address has no byte in the list,
so no entry can equal what it reads as, and lists that answer every lookup alike are equal (log entry 5). -/
abbrev Memory.wf (m : List Host.Cell) : Prop :=
  m.Pairwise (fun c d => c.1 < d.1) ∧ ∀ c ∈ m, c.1 < Config.memSize

/-- What an unlisted address reads as: the draw `mem0(a)` of this launch (10 R34, 70 R201). -/
def Memory.unlisted (launch : Nat) (a : Byte) : Byte := Config.mem0 launch a

/-- `MemRead(a, 1)` on the memory of a launch (20 R51). -/
def Memory.read (launch : Nat) (m : List Host.Cell) (a : Byte) : Byte :=
  (Memory.lookup m a.toNat).getD (Memory.unlisted launch a)

/-- `MemWrite(a, 1, v)` (20 R52). -/
def Memory.write (a v : Byte) (m : List Host.Cell) : List Host.Cell := Memory.insert a.toNat v m

/-- `MemRead(a, 1)` (20 R51): the value of a cell, with no side effect. -/
def State.memRead (s : State) (a : Byte) : Byte := Memory.read s.launch s.mem a

/-- `MemWrite(a, 1, v)` (20 R52): one cell changes. -/
def State.memWrite (a v : Byte) (s : State) : State := { s with mem := Memory.write a v s.mem }

/-- `goto S` (00 R10). -/
def State.goto (st : Fsm) (s : State) : State := { s with fsm := st }

/-- The queue and the counter after the head byte is popped (40 R103). -/
def State.consume (rest : List Byte) (s : State) : State := { s with q := rest, cnt := s.cnt + 1 }

/-- `pop()` (40 R103); `none` where its precondition, a non-empty queue, fails. -/
def State.pop (s : State) : Option (Byte × State) :=
  match s.q with
  | [] => none
  | h :: rest => some (h, s.consume rest)

/-- Latch an opcode byte popped at stream position `pos`, with no operand collected yet (40 R105). -/
def State.latchOpcode (pos : Nat) (h : Byte) (s : State) : State := { s with istart := pos, op := h, k := 0 }

/-- `announce(v)`: the sink receives `v`, and `SAYV` holds it for `say_data` (42 R150, 60 R186). -/
def State.announce (v : Byte) (s : State) : State := { s with sayv := v, ann := s.ann ++ [v] }

/-- Fault entry, `raise Kind` (60 R172): the fault record is written, the FSM goes to FAULT, nothing else changes. -/
def State.raise (kind : FaultKind) (s : State) : State :=
  { s with fkind := kind, fop := s.op, fpos := s.istart, fsm := .fault }

/-- Reset (70 R200, R202), the one way out of FAULT (60 R176): the core's own state takes its reset values, memory takes
a fresh draw, and what the environment holds stays: the sink's record, the producer's bytes, the turns to come. -/
def State.resetStep (s : State) : State :=
  { State.reset with
    ann := s.ann
    annBase := s.ann.length
    offers := s.offers
    turns := s.turns
    launch := s.launch + 1
    depth := s.depth }

end Sys2Proof.Machine
end

