-- ==== Sys2Proof/Machine/Environment.lean ====
section
/-! DEFINITION. The environment's atomic steps (40_fetch_decode_dispatch.md R102, R110 to R114) and whose turn is next
(40 R100). -/

namespace Sys2Proof.Machine

/-- `len(Q) < QUEUE_DEPTH` (10 R31, 40 R110). -/
def depthHasRoom : QueueDepth → Nat → Bool
  | .unbounded, _ => true
  | .bounded n, len => len < n + 1

/-- `len(Q) <= QUEUE_DEPTH` (10 R23). -/
def depthFits : QueueDepth → Nat → Bool
  | .unbounded, _ => true
  | .bounded n, len => len ≤ n + 1

/-- `push(v)` (40 R110). -/
def State.push (v : Byte) (s : State) : State := { s with q := s.q ++ [v] }

/-- The producer's step (40 R110): the oldest offered byte is appended to `Q`. On a full queue the producer is held: its
byte stays offered, nothing is dropped (40 R111; log entry 3). -/
def producerStep (s : State) : State :=
  match s.offers with
  | [] => s
  | v :: rest => if depthHasRoom s.depth s.q.length then { s.push v with offers := rest } else s

/-- `run_step()` (40 R102): IDLE with a non-empty queue goes to FETCH; any other run changes nothing (40 R114). -/
def runStep (s : State) : State :=
  match s.fsm, s.q with
  | .idle, _ :: _ => s.goto .fetch
  | .idle, [] => s
  | .fetch, _ => s
  | .opnd, _ => s
  | .exec, _ => s
  | .sayWait, _ => s
  | .fault, _ => s

/-- `say_done_step()` (40 R112): a completion ends SAYWAIT and changes nothing in any other state. -/
def sinkStep (s : State) : State := if s.fsm = .sayWait then s.goto .fetch else s

/-- Whose turn is next; after the list's end it is always the FSM's (40 R115, log entry 1). -/
def State.nextTurn (s : State) : Turn := s.turns.headD .fsm

/-- The state as the agent whose turn it is finds it: that turn is used up. -/
def State.dropTurn (s : State) : State := { s with turns := s.turns.tail }

end Sys2Proof.Machine
end

