-- ==== Sys2Proof/Machine/Flags.lean ====
section
/-! DEFINITION. The core "has no flags, condition codes or predicates" (10_state.md R24). What stands in their place is
the one overflow condition of ADD (41_memory_arith.md R131, R132), reported by a fault alone. -/

namespace Sys2Proof.Machine

/-- `s = zext_9(vx) + zext_9(vy)`, the exact sum of two cells, 0..510 (41 R131). -/
def sum9 (vx vy : Byte) : BitVec 9 := zext 9 vx + zext 9 vy

/-- `s > 255`: the sum does not fit a cell (41 R131, R132). -/
def sumOverflows (sum : BitVec 9) : Bool := 255 < sum.toNat

/-- `s[7:0]`, the byte stored (41 R131). -/
def sumByte (sum : BitVec 9) : Byte := sum.setWidth 8

end Sys2Proof.Machine
end

