-- ==== Sys2Proof/Syntax.lean ====
section
/-! DEFINITION. The instructions: one constructor per row of spec/opcode_table.json (30_encoding.md R72, R74). -/

namespace Sys2Proof

/-- An instruction with its operand bytes, in stream order (30 R72). Every byte value is a legal operand (30 R78). -/
inductive Instr where
  /-- `LOAD addr, val` (41 R130). -/
  | load (addr val : Byte)
  /-- `ADD x, y` (41 R131). -/
  | add (x y : Byte)
  /-- `SAY addr` (42 R150). -/
  | say (addr : Byte)
  /-- `RET` (42 R151). -/
  | ret
deriving DecidableEq, Repr

end Sys2Proof
end

