-- ==== Sys2Proof/WellFormed.lean ====
section
/-! DEFINITION. Well-formed instructions: the range check of an address operand (20_memory.md R53), for a memory of any
size, so that the check can fail; at the size of this hardware it always passes. -/

namespace Sys2Proof

/-- `zext_9(a) < MEM_SIZE` (20 R53), for a memory of `size` cells. -/
def addrInRange (size : Nat) (a : Byte) : Bool := (zext 9 a).toNat < size

/-- Every address operand of the instruction lies in a memory of `size` cells; LOAD's `val` is an immediate and is
not checked (30 R73). -/
def Instr.wellFormedFor (size : Nat) : Instr → Bool
  | .load addr _ => addrInRange size addr
  | .add x y => addrInRange size x && addrInRange size y
  | .say addr => addrInRange size addr
  | .ret => true

/-- Well-formed on this hardware, whose memory has 256 cells (00 R8). -/
def Instr.wellFormed (i : Instr) : Bool := i.wellFormedFor Config.memSize

end Sys2Proof
end

