-- ==== Sys2Proof/Machine/MemoryArith.lean ====
section
/-! DEFINITION. LOAD and ADD: the EXEC steps of 41_memory_arith.md. -/

namespace Sys2Proof.Machine

/-- LOAD, `MEM[addr] <- val` (41 R130). The range check is kept and never fails (20 R53, log entry 12). -/
def execLoad (addr val : Byte) (s : State) : Host.Outcome State Fault Refusal :=
  .next (
    if !addrInRange Config.memSize addr then s.raise .outOfRangeAddress
    else (s.memWrite addr val).goto .fetch)

/-- ADD, `MEM[x] <- MEM[x] + MEM[y]`, exact: a sum above 255 raises ArithmeticOverflow and stores nothing (41 R131,
R132). Both cells are read before the write. -/
def execAdd (x y : Byte) (s : State) : Host.Outcome State Fault Refusal :=
  .next (
    if !addrInRange Config.memSize x then s.raise .outOfRangeAddress
    else if !addrInRange Config.memSize y then s.raise .outOfRangeAddress
    else if sumOverflows (sum9 (s.memRead x) (s.memRead y)) then s.raise .arithmeticOverflow
    else (s.memWrite x (sumByte (sum9 (s.memRead x) (s.memRead y)))).goto .fetch)

end Sys2Proof.Machine
end

