-- ==== Sys2Proof/Machine/OutputControl.lean ====
section
/-! DEFINITION. SAY and RET: the EXEC steps of 42_output_control.md. -/

namespace Sys2Proof.Machine

/-- SAY: announce `MEM[addr]` and wait for the sink's completion in SAYWAIT (42 R150, 60 R186). -/
def execSay (addr : Byte) (s : State) : Host.Outcome State Fault Refusal :=
  .next (
    if !addrInRange Config.memSize addr then s.raise .outOfRangeAddress
    else (s.announce (s.memRead addr)).goto .sayWait)

/-- RET: no operation, on to the next instruction (42 R151). -/
def execRet (s : State) : Host.Outcome State Fault Refusal := .next (s.goto .fetch)

end Sys2Proof.Machine
end

