-- ==== Sys2Proof/Machine/Dispatch.lean ====
section
/-! DEFINITION. Dispatch of the EXEC step, one arm per instruction (40_fetch_decode_dispatch.md R109). -/

namespace Sys2Proof.Machine

def exec (i : Instr) (s : State) : Host.Outcome State Fault Refusal :=
  match i with
  | .load addr val => Sys2Proof.Machine.execLoad addr val s
  | .add x y => Sys2Proof.Machine.execAdd x y s
  | .say addr => Sys2Proof.Machine.execSay addr s
  | .ret => Sys2Proof.Machine.execRet s

end Sys2Proof.Machine
end

