-- ==== Sys2Proof/Decode.lean ====
section
/-! DEFINITION. The opcode table, the decoder and the encoder (30_encoding.md R70 to R79), and the assembler syntax of
R80. The decoder reads a byte stream and is total: it answers an instruction and the bytes after it, or rejects by name. -/

namespace Sys2Proof

/-- The four entries of the opcode table (30 R74). -/
inductive Opcode where
  | load
  | add
  | say
  | ret
deriving DecidableEq, Repr

/-- The whole-byte match of the opcode table (30 R74, mask 0xFF); `none` is the verdict Illegal of 40 R106. -/
def decodeOpcode (b : Byte) : Option Opcode :=
  if b = 0x10 then some .load
  else if b = 0x11 then some .add
  else if b = 0x12 then some .say
  else if b = 0x13 then some .ret
  else none

/-- The operand count of a table entry (30 R74). -/
def operandCount : Opcode → Nat
  | .load => 2
  | .add => 2
  | .say => 1
  | .ret => 0

/-- `nopnd(op)`, "set by its opcode byte alone"; undefined outside the table (30 R75). -/
def nopnd (op : Byte) : Option Nat := (decodeOpcode op).map operandCount

/-- Why a byte stream does not begin with an instruction. -/
inductive DecodeError where
  /-- The stream is empty. -/
  | noOpcode
  /-- The first byte is not in the opcode table (30 R76). -/
  | unknownOpcode (op : Byte)
  /-- The stream ends inside the instruction (60 R171). -/
  | starvedOperand (op : Byte)
deriving DecidableEq, Repr

/-- Read LOAD's operands, `addr` then `val` (30 R72). -/
def decodeLoad : List Byte → Except DecodeError (Instr × List Byte)
  | addr :: val :: rest => .ok (.load addr val, rest)
  | [_] => .error (.starvedOperand 0x10)
  | [] => .error (.starvedOperand 0x10)

/-- Read ADD's operands, `x` then `y` (30 R72). -/
def decodeAdd : List Byte → Except DecodeError (Instr × List Byte)
  | x :: y :: rest => .ok (.add x y, rest)
  | [_] => .error (.starvedOperand 0x11)
  | [] => .error (.starvedOperand 0x11)

/-- Read SAY's operand `addr` (30 R72). -/
def decodeSay : List Byte → Except DecodeError (Instr × List Byte)
  | addr :: rest => .ok (.say addr, rest)
  | [] => .error (.starvedOperand 0x12)

/-- Decode the instruction at the head of a byte stream and answer the bytes after it (30 R70, R75, R78). -/
def decode : List Byte → Except DecodeError (Instr × List Byte)
  | [] => .error .noOpcode
  | op :: rest =>
    match decodeOpcode op with
    | some .load => decodeLoad rest
    | some .add => decodeAdd rest
    | some .say => decodeSay rest
    | some .ret => .ok (.ret, rest)
    | none => .error (.unknownOpcode op)

/-- Decode a whole byte stream into its instructions, "a plain concatenation" (30 R70). Every instruction takes a byte,
so a fuel of the stream's length is enough. -/
def decodeStream : Nat → List Byte → Except DecodeError (List Instr)
  | _, [] => .ok []
  | 0, _ :: _ => .error .noOpcode
  | fuel + 1, b :: bs =>
    match decode (b :: bs) with
    | .error e => .error e
    | .ok (i, rest) =>
      match decodeStream fuel rest with
      | .error e => .error e
      | .ok is => .ok (i :: is)

/-- Decode a program's bytes (30 R70). -/
def decodeProgram (bytes : List Byte) : Except DecodeError (List Instr) := decodeStream bytes.length bytes

/-- The bytes of an instruction, from the field positions of 30 R72. -/
def encode : Instr → List Byte
  | .load addr val => [0x10, addr, val]
  | .add x y => [0x11, x, y]
  | .say addr => [0x12, addr]
  | .ret => [0x13]

/-- "A program's encoding is the concatenation of its instructions' bytes in program order" (30 R70). -/
def encodeProgram (p : List Instr) : List Byte := p.flatMap encode

/-- Byte `k` of a table word whose bits are `w`, the bits from `nbits` on being 0. Bytes count up from the first byte of
the stream, as spec/opcode_table.json lays them out. -/
def wordByte (nbits w k : Nat) : Byte := BitVec.ofNat 8 ((w % 2 ^ nbits) / 2 ^ (8 * k))

/-- The three bytes (the longest instruction, 30 R71) of a table word, in stream order. -/
def wordBytes (nbits w : Nat) : List Byte := [wordByte nbits w 0, wordByte nbits w 1, wordByte nbits w 2]

/-- The instruction the decoder reads from a table word. -/
def decodeTableWord (nbits w : Nat) : Option Instr :=
  match decode (wordBytes nbits w) with
  | .ok (i, _) => some i
  | .error _ => none

end Sys2Proof
end

