-- ==== Sys2Proof/Machine/Operands.lean ====
section
/-! DEFINITION. Operand forms: how the latches hold the instruction in progress (10_state.md R25, 30_encoding.md R71 to
R73). An address operand is the byte itself; its range check is `addrInRange` (20_memory.md R53). -/

namespace Sys2Proof.Machine

/-- Write one popped byte into `A` (the first operand) or `B` (the second) and count it (40 R108). -/
def State.latchOperand (c : Byte) (s : State) : State :=
  { s with a := if s.k = 0 then c else s.a, b := if s.k = 0 then s.b else c, k := s.k + 1 }

/-- The instruction in `OP`, `A`, `B`, read by the decoder; a format with fewer operands leaves the later latches
unread (30 R71, R75). -/
def State.latched (s : State) : Option Instr :=
  match decode [s.op, s.a, s.b] with
  | .ok (i, _) => some i
  | .error _ => none

end Sys2Proof.Machine
end

