-- ==== Sys2Proof/Machine/Fsm.lean ====
section
/-! DEFINITION. The FSM's own atomic steps (40_fetch_decode_dispatch.md R101, R104 to R109). -/

namespace Sys2Proof.Machine

/-- In FETCH: the run ends on an empty queue (40 R104); else latch the position, pop the opcode, clear `K` and look it
up (40 R105). -/
def fetchStep (s : State) : State :=
  match s.pop with
  | none => s.goto .idle
  | some (h, s1) =>
    match nopnd h with
    | none => (s1.latchOpcode s.cnt h).raise .unknownOpcode
    | some 0 => (s1.latchOpcode s.cnt h).goto .exec
    | some (_ + 1) => (s1.latchOpcode s.cnt h).goto .opnd

/-- Where the FSM goes with `collected` of `n` operands: "if K = nopnd(OP) then goto EXEC else goto OPND" (40 R108). -/
def afterOperand (collected n : Nat) : Fsm := if collected = n then .exec else .opnd

/-- In OPND: an empty queue starves the instruction (40 R107); else pop one operand byte, and go on to EXEC once
`nopnd(OP)` are collected (40 R108). `nopnd` of a byte outside the table is undefined (30 R75). -/
def operandStep (s : State) : Host.Outcome State Fault Refusal :=
  match s.pop with
  | none => .next (s.raise .starvedOperand)
  | some (c, s1) =>
    match nopnd s.op with
    | none => .refused .illFormedState
    | some n => .next ((s1.latchOperand c).goto (afterOperand (s.k + 1) n))

/-- In EXEC: perform the instruction in `OP`, with its operands in `A` and `B` (40 R109). -/
def execStep (s : State) : Host.Outcome State Fault Refusal :=
  match s.latched with
  | some i => exec i s
  | none => .refused .illFormedState

/-- `fsm_step()` (40 R109). IDLE, SAYWAIT and FAULT have no FSM step: the FSM's turn passes with the state unchanged
(log entry 2). -/
def fsmStep (s : State) : Host.Outcome State Fault Refusal :=
  match s.fsm with
  | .fetch => .next (fetchStep s)
  | .opnd => operandStep s
  | .exec => execStep s
  | .idle => .next s
  | .sayWait => .next s
  | .fault => .next s

/-- The turns to come with one FSM turn first; an empty list gives the FSM the turn already. -/
def fsmTurnFirst : List Turn → List Turn
  | [] => []
  | t :: ts => .fsm :: t :: ts

/-- The state in which an instruction with these bytes has just been fetched: as the machine's own fetch and operand
steps leave it after popping the bytes from the head of `Q` (40 R105, R108; log entry 11), with the FSM's turn next. A
byte outside the table is put at the head of `Q` in FETCH, so that the next step fetches it and faults. -/
def placeInstr (b0 b1 b2 : Byte) (s : State) : State :=
  match nopnd b0 with
  | none => { s with fsm := .fetch, q := b0 :: s.q, turns := fsmTurnFirst s.turns }
  | some n =>
    { s with
      fsm := .exec
      op := b0
      a := if 1 ≤ n then b1 else s.a
      b := if 2 ≤ n then b2 else s.b
      k := n
      istart := s.cnt
      cnt := s.cnt + 1 + n
      turns := fsmTurnFirst s.turns }

end Sys2Proof.Machine
end

