-- ==== Sys2Proof/Machine/Step.lean ====
section
/-! DEFINITION. One step: one atomic action of the agent whose turn it is (40_fetch_decode_dispatch.md R100, R101). -/

namespace Sys2Proof.Machine

/-- The atomic action of one agent (40 R101). -/
def agentStep (t : Turn) (s : State) : Host.Outcome State Fault Refusal :=
  match t with
  | .fsm => fsmStep s
  | .producer => .next (producerStep s)
  | .run => .next (runStep s)
  | .sink => .next (sinkStep s)
  | .reset => .next s.resetStep

/-- One atomic step of the core and its environment (00 R7, 40 R100). -/
def step (s : State) : Host.Outcome State Fault Refusal := agentStep s.nextTurn s.dropTurn

/-- The instruction of a table word, just fetched, so that the very next step runs it (log entry 11). -/
def State.withFetchWord (s : State) (nbits w : Nat) : State :=
  placeInstr (wordByte nbits w 0) (wordByte nbits w 1) (wordByte nbits w 2) s

end Sys2Proof.Machine
end

