-- ==== Sys2Proof/Machine/Assembler.lean ====
section
/-! DEFINITION. The assembler syntax of 30_encoding.md R80, one instruction a line, over lists of characters. There are
no pseudo-instructions (R81). -/

namespace Sys2Proof.Machine

/-- The digit a listing shows for a value below 16, as the spec writes `0xNN` (00 R9): letters in upper case. -/
def hexDigit (n : Nat) : Char := n.digitChar.toUpper

/-- The value a digit stands for; letters of either case (log entry 14). -/
def hexDigitValue (c : Char) : Option Nat := (List.range 16).find? (fun n => c == n.digitChar || c == hexDigit n)

/-- The value of a run of digits in a base, most significant first, on top of `acc`. -/
def digitsValue (base : Nat) : Nat → List Char → Option Nat
  | acc, [] => some acc
  | acc, c :: cs =>
    match hexDigitValue c with
    | none => none
    | some d => if d < base then digitsValue base (acc * base + d) cs else none

/-- An operand, "a number 0..255, written in decimal or as `0xNN` hexadecimal" (30 R80). -/
def parseOperand : List Char → Option Byte
  | [] => none
  | '0' :: 'x' :: hi :: lo :: [] => (digitsValue 16 0 [hi, lo]).map (BitVec.ofNat 8)
  | c :: cs =>
    match digitsValue 10 0 (c :: cs) with
    | none => none
    | some n => if n < 256 then some (BitVec.ofNat 8 n) else none

/-- The characters without the spaces at either end. -/
def trimSpaces (cs : List Char) : List Char :=
  ((cs.dropWhile (· = ' ')).reverse.dropWhile (· = ' ')).reverse

/-- The parts of a text between its commas. -/
def splitCommas : List Char → List (List Char)
  | [] => [[]]
  | c :: cs =>
    if c = ',' then [] :: splitCommas cs
    else
      match splitCommas cs with
      | [] => [[c]]
      | p :: ps => (c :: p) :: ps

/-- The operands of a line after its mnemonic, "separated by a comma" (30 R80). -/
def parseOperands (cs : List Char) : Option (List Byte) :=
  if trimSpaces cs = [] then some [] else (splitCommas cs).mapM (fun p => parseOperand (trimSpaces p))

/-- The opcode of an upper-case mnemonic (30 R74, R80). -/
def mnemonicOpcode (m : List Char) : Option Opcode :=
  if m = ['L', 'O', 'A', 'D'] then some .load
  else if m = ['A', 'D', 'D'] then some .add
  else if m = ['S', 'A', 'Y'] then some .say
  else if m = ['R', 'E', 'T'] then some .ret
  else none

/-- The instruction with these operands, if they are as many as its opcode takes (30 R74). -/
def instrOf : Opcode → List Byte → Option Instr
  | .load, [addr, val] => some (.load addr val)
  | .load, _ => none
  | .add, [x, y] => some (.add x y)
  | .add, _ => none
  | .say, [addr] => some (.say addr)
  | .say, _ => none
  | .ret, [] => some .ret
  | .ret, _ => none

/-- Read one line (30 R80): a mnemonic and its operands. -/
def assemble (line : List Char) : Option Instr :=
  match mnemonicOpcode ((trimSpaces line).takeWhile (· ≠ ' ')) with
  | none => none
  | some o =>
    match parseOperands ((trimSpaces line).dropWhile (· ≠ ' ')) with
    | none => none
    | some operands => instrOf o operands

/-- A byte as `0xNN`. -/
def listByte (b : Byte) : List Char := ['0', 'x', hexDigit (b.toNat / 16), hexDigit (b.toNat % 16)]

/-- An instruction as a line of a program listing (30 R80). -/
def listInstr : Instr → List Char
  | .load addr val => ['L', 'O', 'A', 'D', ' '] ++ listByte addr ++ [',', ' '] ++ listByte val
  | .add x y => ['A', 'D', 'D', ' '] ++ listByte x ++ [',', ' '] ++ listByte y
  | .say addr => ['S', 'A', 'Y', ' '] ++ listByte addr
  | .ret => ['R', 'E', 'T']

end Sys2Proof.Machine
end

