-- ==== Sys2Proof/Machine/InstrLevel.lean ====
section
/-! DEFINITION. The instruction-level view of a run (40_fetch_decode_dispatch.md R117): each instruction in one piece,
with no producer step in between and every announce completed. `step` does not use it: the spec says that its
observation equals that of the atomic steps, and an obligation states so. -/

namespace Sys2Proof.Machine

/-- Pop the operands from number `i` on, `left` of them: the first into `A`, the others into `B`; an empty queue
starves the instruction (40 R117). -/
def wholeOperands (i : Nat) : Nat → State → State
  | 0, s => s
  | left + 1, s =>
    match s.pop with
    | none => s.raise .starvedOperand
    | some (c, s1) => wholeOperands (i + 1) left (if i = 0 then { s1 with a := c } else { s1 with b := c })

/-- The effect of an instruction with its operands in `A` and `B`, its announce completed at once (40 R117). -/
def wholeEffect (o : Opcode) (s : State) : State :=
  match o with
  | .load => s.memWrite s.a s.b
  | .add =>
    if sumOverflows (sum9 (s.memRead s.a) (s.memRead s.b)) then s.raise .arithmeticOverflow
    else s.memWrite s.a (sumByte (sum9 (s.memRead s.a) (s.memRead s.b)))
  | .say => s.announce (s.memRead s.a)
  | .ret => s

/-- One round of the loop of 40 R117, from FETCH. -/
def wholeInstr (s : State) : State :=
  match s.pop with
  | none => s.goto .idle
  | some (h, s1) =>
    match decodeOpcode h with
    | none => { s1 with istart := s.cnt, op := h }.raise .unknownOpcode
    | some o =>
      let s2 := wholeOperands 0 (operandCount o) { s1 with istart := s.cnt, op := h }
      if s2.fsm = .fault then s2 else wholeEffect o s2

/-- `run_to_end()` (40 R117): rounds while the FSM is in FETCH. Every round but the last pops a byte, so one round more
than the queue is long is enough. -/
def runToEnd : Nat → State → State
  | 0, s => s
  | rounds + 1, s => if (wholeInstr s).fsm = .fetch then runToEnd rounds (wholeInstr s) else wholeInstr s

end Sys2Proof.Machine
end

