-- ==== Sys2Proof/Machine/Ports.lean ====
section
/-! DEFINITION. What the core shows: its output signals (10_state.md R31), the source's three logical states (R27), and
the observation of a run (R33). The input signals are the turns and `offers` of State. -/

namespace Sys2Proof.Machine

/-- The 3-bit code of `FSM` (10 R22). -/
def fsmCode : Fsm → BitVec 3
  | .idle => 0
  | .fetch => 1
  | .opnd => 2
  | .exec => 3
  | .sayWait => 4
  | .fault => 5

/-- The 3-bit code of `FKIND` (10 R28, 60 R170). -/
def fkindCode : FaultKind → BitVec 3
  | .noFault => 0
  | .unknownOpcode => 1
  | .starvedOperand => 2
  | .outOfRangeAddress => 3
  | .arithmeticOverflow => 4

/-- The source's logical states (10 R27). -/
inductive LogicalState where
  | idle
  | executing
  | faulted
deriving DecidableEq, Repr

/-- The logical state a value of `FSM` belongs to (10 R27). -/
def logicalState : Fsm → LogicalState
  | .idle => .idle
  | .fetch => .executing
  | .opnd => .executing
  | .exec => .executing
  | .sayWait => .executing
  | .fault => .faulted

/-- `enq_ready`: an offered byte is accepted (10 R31). -/
def State.enqReady (s : State) : Bool := depthHasRoom s.depth s.q.length

/-- `say_req`: an announce is outstanding (10 R31). -/
def State.sayReq (s : State) : Bool := decide (s.fsm = .sayWait)

/-- `say_data`: the announced value, "meaningful while `say_req` = 1" (10 R31). -/
def State.sayData (s : State) : Byte := s.sayv

/-- `busy`: the core is Executing (10 R31). -/
def State.busy (s : State) : Bool := decide (logicalState s.fsm = .executing)

/-- `faulted` (10 R31). -/
def State.faulted (s : State) : Bool := decide (s.fsm = .fault)

/-- `state` (10 R31). -/
def State.stateOut (s : State) : BitVec 3 := fsmCode s.fsm

/-- `fkind` (10 R31). -/
def State.fkindOut (s : State) : BitVec 3 := fkindCode s.fkind

/-- `fop` (10 R31). -/
def State.fopOut (s : State) : Byte := s.fop

/-- `fpos`, `POS_WIDTH` bits wide: the hardware's counter wraps, so the port shows the low bits of the unbounded
position (10 R26, R28, R31; 92 D10; log entry 8). -/
def State.fposOut (s : State) : BitVec Config.posWidth := BitVec.ofNat Config.posWidth s.fpos

/-- The fault record as it can be observed: nothing while `FKIND` is NONE (10 R34). -/
structure FaultRecord where
  kind : FaultKind
  op : Byte
  pos : Nat
deriving DecidableEq, Repr

/-- The observable fault record (10 R28, R34). -/
def State.faultRecord (s : State) : Option FaultRecord :=
  if s.fkind = .noFault then none else some { kind := s.fkind, op := s.fop, pos := s.fpos }

/-- The observation of a run (10 R33). -/
structure Observation where
  ann : List Byte
  mem : List Byte
  fsm : Fsm
  record : Option FaultRecord
  cnt : Nat
  q : List Byte
deriving DecidableEq, Repr

/-- All 256 cells in address order (10 R30, R32). -/
def State.cells (s : State) : List Byte := (List.range Config.memSize).map (fun a => s.memRead (BitVec.ofNat 8 a))

/-- What a run shows (10 R33): the announces since reset, memory, FSM, the fault record, `CNT`, the remaining queue. -/
def State.observe (s : State) : Observation where
  ann := s.ann.drop s.annBase
  mem := s.cells
  fsm := s.fsm
  record := s.faultRecord
  cnt := s.cnt
  q := s.q

end Sys2Proof.Machine
end

