-- ==== Sys2Proof/Safety.lean ====
section
/-! DEFINITION. The terms claims use: the invariant of the machine, the edges of the FSM, what a state may differ in
unseen, and runs of the environment. -/

namespace Sys2Proof.Machine

/-- What `CNT` says of each kind of fault (60 R173). -/
def FaultRecordOk (kind : FaultKind) (fop : Byte) (fpos cnt : Nat) : Prop :=
  match kind with
  | .noFault => True
  | .unknownOpcode => nopnd fop = none ∧ cnt = fpos + 1
  | .starvedOperand => ∃ n, nopnd fop = some n ∧ fpos + 1 ≤ cnt ∧ cnt < fpos + 1 + n
  | .outOfRangeAddress => False
  | .arithmeticOverflow => fop = 0x11 ∧ cnt = fpos + 3

/-- The invariant every step keeps. -/
structure State.Inv (s : State) : Prop where
  /-- The memory list is in its canonical form (log entry 5). -/
  memWf : Memory.wf s.mem
  /-- `Q`'s "length never exceeds `QUEUE_DEPTH`" (10 R23). -/
  queueFits : depthFits s.depth s.q.length = true
  /-- The sink's record only grows (10 R33). -/
  annBaseLe : s.annBase ≤ s.ann.length
  /-- In OPND the opcode is in the table, operands are missing, and `CNT` counts what was popped (40 R105, R108). -/
  collecting : s.fsm = .opnd → ∃ n, nopnd s.op = some n ∧ s.k < n ∧ s.cnt = s.istart + 1 + s.k
  /-- "In EXEC, `OP` is always one of the four opcodes, and `A` and `B` hold the operands the opcode needs" (40 R109). -/
  ready : s.fsm = .exec → nopnd s.op = some s.k ∧ s.cnt = s.istart + 1 + s.k
  /-- In SAYWAIT the outstanding announce is the last one and equals `MEM[addr]` (42 R150, 60 R186). -/
  waiting : s.fsm = .sayWait →
    s.op = 0x12 ∧ s.sayv = s.memRead s.a ∧ s.annBase < s.ann.length ∧ s.ann.getLast? = some s.sayv
  /-- The fault record is written only on entering FAULT and kept until reset (10 R28). -/
  faultedIff : s.fsm = .fault ↔ s.fkind ≠ .noFault
  /-- The record agrees with `CNT` (60 R173). -/
  record : FaultRecordOk s.fkind s.fop s.fpos s.cnt

/-- The edges of the transition table and, for each, the agent that takes it (40 R101); an agent without an edge leaves
`FSM` unchanged. Reset is the last line. -/
def edge : Turn → Fsm → Fsm → Bool
  | .run, .idle, .fetch => true
  | .fsm, .fetch, .idle => true
  | .fsm, .fetch, .exec => true
  | .fsm, .fetch, .opnd => true
  | .fsm, .fetch, .fault => true
  | .fsm, .opnd, .fault => true
  | .fsm, .opnd, .exec => true
  | .fsm, .opnd, .opnd => true
  | .fsm, .exec, .fetch => true
  | .fsm, .exec, .fault => true
  | .fsm, .exec, .sayWait => true
  | .sink, .sayWait, .fetch => true
  | .reset, _, .idle => true
  | _, _, _ => false

/-- Two states that agree in all but what no observation exposes (10 R34, R36): a latch counts only while the
instruction in progress has written it and may still read it, and the fault record only after a fault. -/
def HiddenAgree (s t : State) : Prop :=
  { s with op := t.op, a := t.a, b := t.b, k := t.k, istart := t.istart, sayv := t.sayv, fop := t.fop, fpos := t.fpos } = t
  ∧ ((s.fsm = .opnd ∨ s.fsm = .exec) →
      s.op = t.op ∧ s.istart = t.istart ∧ s.k = t.k ∧ (0 < s.k → s.a = t.a) ∧ (1 < s.k → s.b = t.b))
  ∧ (s.fsm = .sayWait → s.sayv = t.sayv)
  ∧ (s.fkind ≠ .noFault → s.fop = t.fop ∧ s.fpos = t.fpos)

/-- A run has ended: "`FSM` is IDLE (normal completion) or FAULT (failure)" (40 R116). -/
def State.ended (s : State) : Prop := s.fsm = .idle ∨ s.fsm = .fault

/-- Turns in which no producer, run or reset step interleaves: only the FSM and the sink move (40 R117). -/
def undisturbed (ts : List Turn) : Prop := ∀ t ∈ ts, t = .fsm ∨ t = .sink

/-- `n` rounds in each of which the FSM moves and then the sink completes whatever is outstanding (70 R209). -/
def attentiveSink : Nat → List Turn
  | 0 => []
  | n + 1 => .fsm :: .sink :: attentiveSink n

end Sys2Proof.Machine
end

