-- ==== Sys2Proof/Certificates/Slice0/Obligations.lean ====
section
/-! DEFINITION. The statements for the provers, each after a rule of spec/. -/

open Sys2Proof Sys2Proof.Machine

/-! ## Encoding -/

/-- A program's encoding is the plain concatenation of its instructions' bytes (30 R70), and decoding it gives the
program back, whatever its operands (30 R78). -/
def Obligations.DecodeEncodedProgram : Prop :=
  ∀ p : List Instr, decodeProgram (encodeProgram p) = .ok p

/-- Bytes that decode to an instruction are that instruction's encoding followed by the rest (30 R70, R72): no other
word stands for it. -/
def Obligations.DecodedBytesReencode : Prop :=
  ∀ bs i rest, decode bs = .ok (i, rest) → bs = encode i ++ rest

/-- 30 R74, 40 R106: the opcode table has exactly four entries, with these operand counts, and every other byte is
illegal. -/
def Obligations.OpcodeTableIsClosed : Prop :=
  (decodeOpcode 0x10 = some .load ∧ nopnd 0x10 = some 2)
  ∧ (decodeOpcode 0x11 = some .add ∧ nopnd 0x11 = some 2)
  ∧ (decodeOpcode 0x12 = some .say ∧ nopnd 0x12 = some 1)
  ∧ (decodeOpcode 0x13 = some .ret ∧ nopnd 0x13 = some 0)
  ∧ ∀ b : Byte, b ≠ 0x10 → b ≠ 0x11 → b ≠ 0x12 → b ≠ 0x13 →
      decodeOpcode b = none ∧ nopnd b = none ∧ ∀ rest, decode (b :: rest) = .error (.unknownOpcode b)

/-- Words written out from 30 R72 decode to the instructions they stand for. -/
def Obligations.WrittenWordsDecode : Prop :=
  decode [0x10#8, 0x01#8, 0x13#8] = .ok (.load 0x01 0x13, [])
  ∧ decode [0x11#8, 0x00#8, 0x01#8, 0x12#8] = .ok (.add 0x00 0x01, [0x12])
  ∧ decode [0x12#8, 0xFF#8] = .ok (.say 0xFF, [])
  ∧ decode [0x13#8, 0xFF#8] = .ok (.ret, [0xFF])

/-- 30 R80: a line of a program listing reads back as the instruction it lists. -/
def Obligations.ListingReadsBack : Prop :=
  ∀ i : Instr, assemble (listInstr i) = some i

/-! ## Memory -/

/-- 20 R52: a write sets one cell and no other, and outside a reset (which redraws memory, 70 R200) only the EXEC step
of a LOAD or an ADD changes a cell, the one `A` names. -/
def Obligations.OnlyLoadAndAddWriteMemory : Prop :=
  (∀ (s : State) (a v b : Byte), (s.memWrite a v).memRead b = if b = a then v else s.memRead b)
  ∧ ∀ (s t : State) (b : Byte), step s = .next t → s.nextTurn ≠ .reset → t.memRead b ≠ s.memRead b →
      s.nextTurn = .fsm ∧ s.fsm = .exec ∧ (s.op = 0x10 ∨ s.op = 0x11) ∧ b = s.a

/-- Two canonical memory lists that answer every lookup alike are the same list (log entry 5, the model's choice). -/
def Obligations.EqualMemoriesAreEqualLists : Prop :=
  ∀ m n : List Host.Cell, Memory.wf m → Memory.wf n → (∀ a, Memory.lookup m a = Memory.lookup n a) → m = n

/-- 20 R53: the range check of an address operand always passes, and no step raises OutOfRangeAddress. -/
def Obligations.OutOfRangeAddressNeverRaised : Prop :=
  (∀ a : Byte, addrInRange Config.memSize a = true)
  ∧ ∀ s t : State, step s = .next t → s.fkind ≠ .outOfRangeAddress → t.fkind ≠ .outOfRangeAddress

/-- 20 R60, 41 R130: of two LOADs to one address the later leaves the very state it would leave alone. -/
def Obligations.LaterLoadWins : Prop :=
  ∀ (addr v w : Byte) (s : State), ∃ t u,
    exec (.load addr v) s = .next t ∧ exec (.load addr w) t = .next u ∧ exec (.load addr w) s = .next u

/-- 20 R62: memory never reaches instruction fetch. In FETCH and OPND the FSM's step does the same whatever memory
holds, and leaves it. -/
def Obligations.FetchIgnoresMemory : Prop :=
  ∀ (s t : State) (m : List Host.Cell), s.nextTurn = .fsm → s.fsm = .fetch ∨ s.fsm = .opnd →
    step s = .next t → t.mem = s.mem ∧ step { s with mem := m } = .next { t with mem := m }

/-! ## The four instructions: result, frame, completion -/

/-- 41 R130: LOAD completes with `val` in the cell `addr`, every other cell and all other state as before, in FETCH. -/
def Obligations.LoadStoresImmediate : Prop :=
  ∀ (addr val : Byte) (s : State),
    encode (.load addr val) = [0x10, addr, val]
    ∧ ∃ t, exec (.load addr val) s = .next t
      ∧ (∀ b, t.memRead b = if b = addr then val else s.memRead b)
      ∧ t.fsm = .fetch
      ∧ { t with mem := s.mem, fsm := s.fsm } = s

/-- 41 R131, R132: ADD completes with the exact sum in the cell `x` when the sum is at most 255; a larger sum raises
ArithmeticOverflow with memory and all else unchanged but the fault record and `FSM`. -/
def Obligations.AddStoresExactSumOrFaults : Prop :=
  (∀ x y : Byte, encode (.add x y) = [0x11, x, y])
  ∧ (∀ (x y : Byte) (s : State), (s.memRead x).toNat + (s.memRead y).toNat ≤ 255 →
      ∃ t, exec (.add x y) s = .next t
        ∧ (t.memRead x).toNat = (s.memRead x).toNat + (s.memRead y).toNat
        ∧ (∀ b, b ≠ x → t.memRead b = s.memRead b)
        ∧ t.fsm = .fetch
        ∧ { t with mem := s.mem, fsm := s.fsm } = s)
  ∧ ∀ (x y : Byte) (s : State), 255 < (s.memRead x).toNat + (s.memRead y).toNat →
      exec (.add x y) s
        = .next { s with fkind := .arithmeticOverflow, fop := s.op, fpos := s.istart, fsm := .fault }

/-- 42 R150: SAY completes with the cell's value announced once, `SAYV` holding it on `say_data`, in SAYWAIT; memory and
all other state as before; the sink's completion then leads to FETCH. -/
def Obligations.SayAnnouncesCell : Prop :=
  ∀ (addr : Byte) (s : State),
    encode (.say addr) = [0x12, addr]
    ∧ ∃ t, exec (.say addr) s = .next t
      ∧ t.ann = s.ann ++ [s.memRead addr]
      ∧ t.sayData = s.memRead addr
      ∧ t.fsm = .sayWait ∧ t.sayReq = true
      ∧ (∀ b, t.memRead b = s.memRead b)
      ∧ { t with ann := s.ann, sayv := s.sayv, fsm := s.fsm } = s
      ∧ (t.nextTurn = .sink → step t = .next { t with turns := t.turns.tail, fsm := .fetch })

/-- 42 R151: RET completes with nothing changed but `FSM`, which goes to FETCH. -/
def Obligations.RetDoesNothing : Prop :=
  encode .ret = [0x13] ∧ ∀ s : State, exec .ret s = .next { s with fsm := .fetch }

/-- 42 R151: a RET at an instruction boundary takes the FSM two steps and changes nothing but `CNT`, the byte consumed,
and latches no observation exposes. -/
def Obligations.InsertedRetOnlyCounts : Prop :=
  ∀ (s : State) (rest : List Byte), s.turns = [] → s.fsm = .fetch → s.q = 0x13 :: rest →
    ∃ t, Host.Core.run core 2 s = .next t
      ∧ { t with op := s.op, k := s.k, istart := s.istart } = { s with q := rest, cnt := s.cnt + 1 }
      ∧ t.observe = { s.observe with q := rest, cnt := s.cnt + 1 }

/-! ## The FSM's steps -/

/-- 40 R104: FETCH on an empty queue ends the run in IDLE, and nothing else changes. -/
def Obligations.FetchOnEmptyQueueEndsRun : Prop :=
  ∀ s : State, s.nextTurn = .fsm → s.fsm = .fetch → s.q = [] →
    step s = .next { s with turns := s.turns.tail, fsm := .idle }

/-- 40 R105: FETCH pops the head byte into `OP`, latches its position, clears `K`, and goes to EXEC for RET, to OPND for
LOAD, ADD and SAY, and to FAULT with its record (60 R172) for every other byte. -/
def Obligations.FetchPopsAndLooksUpOpcode : Prop :=
  ∀ (s : State) (h : Byte) (rest : List Byte), s.nextTurn = .fsm → s.fsm = .fetch → s.q = h :: rest →
    (h = 0x13 → step s = .next { s with
      turns := s.turns.tail, istart := s.cnt, op := h, k := 0, q := rest, cnt := s.cnt + 1, fsm := .exec })
    ∧ (h = 0x10 ∨ h = 0x11 ∨ h = 0x12 → step s = .next { s with
      turns := s.turns.tail, istart := s.cnt, op := h, k := 0, q := rest, cnt := s.cnt + 1, fsm := .opnd })
    ∧ (h ≠ 0x10 → h ≠ 0x11 → h ≠ 0x12 → h ≠ 0x13 → step s = .next { s with
      turns := s.turns.tail, istart := s.cnt, op := h, k := 0, q := rest, cnt := s.cnt + 1, fsm := .fault,
      fkind := .unknownOpcode, fop := h, fpos := s.cnt })

/-- 40 R107, 60 R172: OPND on an empty queue raises StarvedOperand; no cell, no announce, no counter changes. -/
def Obligations.EmptyQueueStarvesOperand : Prop :=
  ∀ s : State, s.nextTurn = .fsm → s.fsm = .opnd → s.q = [] →
    step s = .next { s with
      turns := s.turns.tail, fkind := .starvedOperand, fop := s.op, fpos := s.istart, fsm := .fault }

/-- 40 R108: OPND pops one byte into `A` first and `B` then, and goes to EXEC with the last operand. -/
def Obligations.OperandsCollectedInOrder : Prop :=
  ∀ (s : State) (c : Byte) (rest : List Byte) (n : Nat), s.nextTurn = .fsm → s.fsm = .opnd → s.q = c :: rest →
    nopnd s.op = some n →
    (s.k = 0 → step s = .next { s with
      turns := s.turns.tail, q := rest, cnt := s.cnt + 1, a := c, k := 1, fsm := if n = 1 then .exec else .opnd })
    ∧ (s.k ≠ 0 → step s = .next { s with
      turns := s.turns.tail, q := rest, cnt := s.cnt + 1, b := c, k := s.k + 1,
      fsm := if s.k + 1 = n then .exec else .opnd })

/-- 40 R109: on the FSM's turn in EXEC, a step is the execution of the instruction the latches hold, with that turn used
up. -/
def Obligations.StepRunsLatchedInstruction : Prop :=
  ∀ (s : State) (i : Instr) (rest : List Byte), s.nextTurn = .fsm → s.fsm = .exec →
    decode [s.op, s.a, s.b] = .ok (i, rest) → step s = exec i { s with turns := s.turns.tail }

/-- 40 R105, R108, R109: from FETCH with an instruction at the head of the queue and no other agent moving, one step per
byte brings the FSM to EXEC with that instruction latched, `CNT` advanced by its length and all else unchanged, and the
next step executes it. -/
def Obligations.QueuedInstructionIsExecuted : Prop :=
  ∀ (s : State) (i : Instr) (rest : List Byte), s.turns = [] → s.fsm = .fetch → s.q = encode i ++ rest →
    ∃ t, Host.Core.run core (encode i).length s = .next t
      ∧ t.fsm = .exec ∧ t.q = rest ∧ t.cnt = s.cnt + (encode i).length ∧ t.istart = s.cnt
      ∧ { t with fsm := s.fsm, q := s.q, cnt := s.cnt, istart := s.istart, op := s.op, a := s.a, b := s.b, k := s.k } = s
      ∧ step t = exec i t

/-- 40 R109, 60 R187: IDLE, SAYWAIT and FAULT have no FSM step; the FSM's turn passes with the state unchanged (log
entry 2). -/
def Obligations.NoFsmStepInWaitStates : Prop :=
  ∀ s : State, s.nextTurn = .fsm → s.fsm = .idle ∨ s.fsm = .sayWait ∨ s.fsm = .fault →
    step s = .next { s with turns := s.turns.tail }

/-! ## The environment's steps -/

/-- 40 R102, R114: run moves an Idle core with a non-empty queue to FETCH and changes nothing in every other case. -/
def Obligations.RunStartsOnlyFromIdle : Prop :=
  ∀ s : State, s.nextTurn = .run →
    (s.fsm = .idle → s.q ≠ [] → step s = .next { s with turns := s.turns.tail, fsm := .fetch })
    ∧ (s.fsm = .idle → s.q = [] → step s = .next { s with turns := s.turns.tail })
    ∧ (s.fsm ≠ .idle → step s = .next { s with turns := s.turns.tail })

/-- 40 R110, R111: in every FSM state the producer's byte is appended at the tail while there is room and nothing else
changes; on a full queue the byte stays with the producer. -/
def Obligations.ProducerAppendsOrIsHeld : Prop :=
  ∀ (s : State) (v : Byte) (more : List Byte), s.nextTurn = .producer → s.offers = v :: more →
    ((∀ n, s.depth = .bounded n → s.q.length < n + 1) →
      step s = .next { s with turns := s.turns.tail, q := s.q ++ [v], offers := more })
    ∧ (∀ n, s.depth = .bounded n → s.q.length = n + 1 → step s = .next { s with turns := s.turns.tail })

/-- 40 R112: the sink's completion ends SAYWAIT and changes nothing in any other state. -/
def Obligations.CompletionEndsOnlySayWait : Prop :=
  ∀ s : State, s.nextTurn = .sink →
    (s.fsm = .sayWait → step s = .next { s with turns := s.turns.tail, fsm := .fetch })
    ∧ (s.fsm ≠ .sayWait → step s = .next { s with turns := s.turns.tail })

/-- 10 R34, 70 R200: a reset in any state leaves IDLE, an empty queue, `CNT` 0, no fault, a fresh draw in every cell
(the one of the next launch), the sink's record as it was, and the outputs of a fresh core. -/
def Obligations.ResetStepRestoresReset : Prop :=
  ∀ s : State, s.nextTurn = .reset →
    ∃ t, step s = .next t ∧ t.fsm = .idle ∧ t.q = [] ∧ t.cnt = 0 ∧ t.fkind = .noFault
      ∧ (∀ a, t.memRead a = Config.mem0 (s.launch + 1) a) ∧ t.ann = s.ann
      ∧ t.sayReq = false ∧ t.busy = false ∧ t.faulted = false ∧ t.enqReady = true

/-- 10 R34: the state right after the first launch; that its record is empty and its launch number 0 is the model's
choice (92 D27, log entries 9 and 15). -/
def Obligations.ResetStateAsSpecified : Prop :=
  State.reset.fsm = .idle ∧ State.reset.q = [] ∧ State.reset.cnt = 0 ∧ State.reset.fkind = .noFault
  ∧ (∀ a, State.reset.memRead a = Config.mem0 0 a) ∧ State.reset.ann = []
  ∧ State.reset.sayReq = false ∧ State.reset.busy = false ∧ State.reset.faulted = false
  ∧ State.reset.enqReady = true

/-- 70 R206, 93 I7: with one operand missing and its byte still with the producer, both orders of the two agents are
admitted: the byte in time completes the operands, the byte too late finds the core faulted and stays queued. -/
def Obligations.ProducerRaceHasBothOutcomes : Prop :=
  ∀ (s : State) (v : Byte), s.fsm = .opnd → s.op = 0x10 → s.k = 1 → s.q = [] → s.offers = [v] →
    (∃ t, Host.Core.run core 2 { s with turns := [.producer, .fsm] } = .next t
      ∧ t.fsm = .exec ∧ t.a = s.a ∧ t.b = v ∧ t.q = [] ∧ t.cnt = s.cnt + 1)
    ∧ ∃ t, Host.Core.run core 2 { s with turns := [.fsm, .producer] } = .next t
      ∧ t.fsm = .fault ∧ t.fkind = .starvedOperand ∧ t.fop = 0x10 ∧ t.fpos = s.istart ∧ t.q = [v] ∧ t.cnt = s.cnt

/-! ## Whole-machine rules -/

/-- 40 R101: `FSM` moves only along the edges of the transition table, each by the agent that table names. -/
def Obligations.FsmFollowsTransitionTable : Prop :=
  ∀ s t : State, step s = .next t → t.fsm ≠ s.fsm → edge s.nextTurn s.fsm t.fsm = true

/-- 40 R115: in FETCH, OPND and EXEC an FSM step is always enabled: on the FSM's turn it moves the FSM or consumes a
byte. (`Inv` rules out the states in which `OP` is outside the opcode table.) -/
def Obligations.FsmStepAlwaysEnabled : Prop :=
  ∀ s : State, s.Inv → s.nextTurn = .fsm → s.fsm = .fetch ∨ s.fsm = .opnd ∨ s.fsm = .exec →
    ∃ t, step s = .next t ∧ (t.fsm ≠ s.fsm ∨ t.cnt = s.cnt + 1)

/-- 60 R177: nothing but reset leaves FAULT. Run, completion and the FSM's turn change nothing there, and an enqueue is
accepted while there is room and changes nothing but the queue; with no room, or nothing offered, the queue holds too. -/
def Obligations.OnlyResetLeavesFault : Prop :=
  ∀ s : State, s.fsm = .fault → s.nextTurn ≠ .reset →
    ∃ t, step s = .next t
      ∧ { t with q := s.q, offers := s.offers } = { s with turns := s.turns.tail }
      ∧ (s.nextTurn ≠ .producer → t.q = s.q ∧ t.offers = s.offers)
      ∧ (∀ v more, s.nextTurn = .producer → s.offers = v :: more → s.enqReady = true →
          t.q = s.q ++ [v] ∧ t.offers = more)
      ∧ (s.offers = [] ∨ s.enqReady = false → t.q = s.q ∧ t.offers = s.offers)
      ∧ t.faulted = true ∧ t.busy = false

/-- 60 R187: if the sink never completes (and there is no reset), a core in SAYWAIT stays there for ever, whatever the
other agents do: after any number of steps only the queue, the producer's bytes and the turns have changed. -/
def Obligations.SilentSinkHangsInSayWait : Prop :=
  ∀ (n : Nat) (s : State), s.fsm = .sayWait → (∀ turn ∈ s.turns, turn ≠ .sink ∧ turn ≠ .reset) →
    ∃ t, Host.Core.run core n s = .next t ∧ { t with q := s.q, offers := s.offers, turns := s.turns } = s

/-- 60 R172, R175: the step that detects a fault is the FSM's; it records the kind its state can raise, the opcode and
its position, goes to FAULT, and changes nothing else, except that from FETCH it has also popped the illegal byte and
latched it (40 R105). So memory, the sink's record and the bytes after the instruction are as they were. -/
def Obligations.FaultsArePrecise : Prop :=
  ∀ s t : State, step s = .next t → s.fsm ≠ .fault → t.fsm = .fault →
    s.nextTurn = .fsm ∧ t.fop = t.op ∧ t.fpos = t.istart
    ∧ ((s.fsm = .fetch ∧ t.fkind = .unknownOpcode
        ∧ s.q = t.op :: t.q ∧ t.cnt = s.cnt + 1 ∧ t.istart = s.cnt ∧ t.k = 0
        ∧ { t with fsm := s.fsm, fkind := s.fkind, fop := s.fop, fpos := s.fpos,
                   op := s.op, istart := s.istart, k := s.k, q := s.q, cnt := s.cnt }
            = { s with turns := s.turns.tail })
      ∨ (((s.fsm = .opnd ∧ t.fkind = .starvedOperand) ∨ (s.fsm = .exec ∧ t.fkind = .arithmeticOverflow))
        ∧ { t with fsm := s.fsm, fkind := s.fkind, fop := s.fop, fpos := s.fpos }
            = { s with turns := s.turns.tail }))

/-- 10 R28: the fault record is written only when the core enters FAULT, with the opcode and the position of the
instruction in progress, and keeps its values until reset. -/
def Obligations.FaultRecordWrittenOnlyAtEntry : Prop :=
  ∀ s t : State, step s = .next t → s.nextTurn ≠ .reset →
    (t.fkind = s.fkind ∧ t.fop = s.fop ∧ t.fpos = s.fpos)
    ∨ (s.fsm ≠ .fault ∧ t.fsm = .fault ∧ t.fkind ≠ .noFault ∧ t.fop = t.op ∧ t.fpos = t.istart)

/-- 60 R186: the sink's record grows only at the EXEC step of a SAY, by the value of the cell it names, and the core then
waits; no announce starts while another is outstanding. -/
def Obligations.AnnouncesOnlyBySay : Prop :=
  ∀ s t : State, step s = .next t → t.ann ≠ s.ann →
    s.nextTurn = .fsm ∧ s.fsm = .exec ∧ s.op = 0x12 ∧ t.fsm = .sayWait
    ∧ t.ann = s.ann ++ [s.memRead s.a] ∧ t.sayv = s.memRead s.a

/-- 10 R23, 40 R103: outside a reset the queue is FIFO: a step leaves it alone, or appends the producer's oldest byte at
its tail, or (the FSM in FETCH or OPND) pops its head, and `CNT` counts exactly the pops. -/
def Obligations.QueueIsFifoAndCounted : Prop :=
  ∀ s t : State, step s = .next t → s.nextTurn ≠ .reset →
    (t.q = s.q ∧ t.cnt = s.cnt)
    ∨ (s.nextTurn = .producer ∧ t.cnt = s.cnt ∧ ∃ v, t.q = s.q ++ [v] ∧ s.offers = v :: t.offers)
    ∨ (s.nextTurn = .fsm ∧ (s.fsm = .fetch ∨ s.fsm = .opnd) ∧ t.cnt = s.cnt + 1 ∧ ∃ h, s.q = h :: t.q)

/-- 40 R118: outside a reset an opcode is latched only by the FSM in FETCH, and FETCH is entered only at the start of a
run, after an EXEC step, and for a SAY only by the sink's completion; so no two instructions overlap. -/
def Obligations.InstructionsNeverOverlap : Prop :=
  ∀ s t : State, step s = .next t → s.nextTurn ≠ .reset →
    (t.op ≠ s.op ∨ t.istart ≠ s.istart →
      s.nextTurn = .fsm ∧ s.fsm = .fetch ∧ t.istart = s.cnt ∧ s.q = t.op :: t.q)
    ∧ (s.fsm ≠ .fetch → t.fsm = .fetch →
      (s.fsm = .idle ∧ s.nextTurn = .run) ∨ (s.fsm = .exec ∧ s.nextTurn = .fsm ∧ s.op ≠ 0x12)
      ∨ (s.fsm = .sayWait ∧ s.nextTurn = .sink))

/-! ## Invariants -/

/-- Every step keeps the invariant `Inv`: canonical memory, the queue within `QUEUE_DEPTH` (10 R23), the latches of the
instruction in progress (40 R109), the outstanding announce equal to its cell (42 R150), the fault record tied to FAULT
(10 R28) and to `CNT` (60 R173). -/
def Obligations.StepKeepsInv : Prop :=
  ∀ s t : State, s.Inv → step s = .next t → t.Inv

/-- The invariant holds right after reset. -/
def Obligations.ResetSatisfiesInv : Prop := State.reset.Inv

/-- Where the invariant holds, every agent's turn has an outcome: no step stops (40 R106, R109). -/
def Obligations.InvStatesNeverStop : Prop := ∀ s : State, s.Inv → ∃ t, step s = .next t

/-! ## Runs -/

/-- 10 R36: what the latches and the fault record held before they are written never shows. Two states that agree in all
but those make steps to states that still agree, and show the same observation. -/
def Obligations.HiddenStateIsUnobservable : Prop :=
  ∀ s t : State, s.Inv → t.Inv → HiddenAgree s t →
    ∃ s' t', step s = .next s' ∧ step t = .next t' ∧ HiddenAgree s' t' ∧ s'.observe = t'.observe

/-- 40 R117: with no producer step in between, a run that has ended shows what the instruction-level view shows, however
the FSM's turns and the sink's completions interleave. -/
def Obligations.InstructionLevelViewAgrees : Prop :=
  ∀ s u : State, s.fsm = .fetch → undisturbed s.turns → Host.Core.run core s.turns.length s = .next u → u.ended →
    u.observe = (runToEnd (s.q.length + 1) s).observe

/-- 40 R115, R116: if the sink completes every announce and the producer stays away, a run ends, in IDLE or FAULT, within
two rounds for each queued byte and three more. -/
def Obligations.UndisturbedRunEnds : Prop :=
  ∀ s : State, s.Inv → s.turns = attentiveSink (2 * s.q.length + 3) →
    ∃ u, Host.Core.run core s.turns.length s = .next u ∧ u.ended

/-! ## Signals -/

/-- 10 R22, R27, R31: the codes of the six values of FSM on `state`, the logical state each of them is, on `busy`,
`faulted` and `say_req`, and `enq_ready` exactly while `len(Q)` is below `QUEUE_DEPTH`. -/
def Obligations.SignalsShowFsm : Prop :=
  fsmCode .idle = 0 ∧ fsmCode .fetch = 1 ∧ fsmCode .opnd = 2 ∧ fsmCode .exec = 3 ∧ fsmCode .sayWait = 4
  ∧ fsmCode .fault = 5 ∧ (∀ f : Fsm, (fsmCode f).toNat < 6)
  ∧ ∀ s : State,
      s.stateOut = fsmCode s.fsm
      ∧ (s.busy = true ↔ s.fsm = .fetch ∨ s.fsm = .opnd ∨ s.fsm = .exec ∨ s.fsm = .sayWait)
      ∧ (s.faulted = true ↔ s.fsm = .fault) ∧ (s.sayReq = true ↔ s.fsm = .sayWait)
      ∧ (s.enqReady = true ↔ ∀ n, s.depth = .bounded n → s.q.length < n + 1)

/-- 10 R28, R31, 60 R170: the codes of FKIND, 5 to 7 among them never shown, and the fault record on its ports. -/
def Obligations.SignalsShowFaultRecord : Prop :=
  fkindCode .noFault = 0 ∧ fkindCode .unknownOpcode = 1 ∧ fkindCode .starvedOperand = 2
  ∧ fkindCode .outOfRangeAddress = 3 ∧ fkindCode .arithmeticOverflow = 4 ∧ (∀ f : FaultKind, (fkindCode f).toNat < 5)
  ∧ ∀ s : State, s.fkindOut = fkindCode s.fkind ∧ s.fopOut = s.fop

/-- 10 R26, 92 D10: the `fpos` port is `POS_WIDTH` bits wide and shows the position modulo 2 to that width. -/
def Obligations.FposPortWraps : Prop :=
  ∀ s : State, s.fposOut.toNat = s.fpos % 2 ^ Config.posWidth
end

