-- ==== Sys2Proof/Laws/Decode.lean ====
section
/-! SUPPORT. The decoder on the four opcodes and on all others, and the instruction in the latches. -/

namespace Sys2Proof

/-- The opcode table as cases: what a byte decodes to, and what `nopnd` then is. -/
theorem decodeOpcode_cases (b : Byte) :
    (b = 0x10 ∧ decodeOpcode b = some .load) ∨ (b = 0x11 ∧ decodeOpcode b = some .add)
    ∨ (b = 0x12 ∧ decodeOpcode b = some .say) ∨ (b = 0x13 ∧ decodeOpcode b = some .ret)
    ∨ (b ≠ 0x10 ∧ b ≠ 0x11 ∧ b ≠ 0x12 ∧ b ≠ 0x13 ∧ decodeOpcode b = none) := by
  unfold decodeOpcode
  split_ifs <;> simp_all

theorem nopnd_eq_none_iff (b : Byte) : nopnd b = none ↔ b ≠ 0x10 ∧ b ≠ 0x11 ∧ b ≠ 0x12 ∧ b ≠ 0x13 := by
  obtain ⟨rfl, h⟩ | ⟨rfl, h⟩ | ⟨rfl, h⟩ | ⟨rfl, h⟩ | ⟨h0, h1, h2, h3, h⟩ := decodeOpcode_cases b <;>
    simp_all [nopnd]

theorem nopnd_le_two {b : Byte} {n : Nat} (h : nopnd b = some n) : n ≤ 2 := by
  obtain ⟨o, -, rfl⟩ := Option.map_eq_some_iff.1 h
  cases o <;> decide

/-- One instruction at the head of a stream reads back, whatever follows it (30_encoding.md R70, R78). -/
theorem decode_encode (i : Instr) (rest : List Byte) : decode (encode i ++ rest) = .ok (i, rest) := by
  cases i <;> rfl

namespace Machine

/-- The instruction in the latches, by the opcode in `OP`. -/
theorem State.latched_cases (s : State) :
    (s.op = 0x10 ∧ s.latched = some (.load s.a s.b)) ∨ (s.op = 0x11 ∧ s.latched = some (.add s.a s.b))
    ∨ (s.op = 0x12 ∧ s.latched = some (.say s.a)) ∨ (s.op = 0x13 ∧ s.latched = some .ret)
    ∨ (nopnd s.op = none ∧ s.latched = none) := by
  rcases h : decodeOpcode_cases s.op with ⟨e, hd⟩ | ⟨e, hd⟩ | ⟨e, hd⟩ | ⟨e, hd⟩ | ⟨-, -, -, -, hd⟩ <;>
    simp [State.latched, decode, hd, decodeLoad, decodeAdd, decodeSay, nopnd]
  all_goals exact e

end Machine

end Sys2Proof
end

