-- ==== Sys2Proof/Laws/State.lean ====
section
/-! SUPPORT. What each named update leaves in each field of State, so that no later proof unfolds a record update. -/

namespace Sys2Proof.Machine

@[simp] theorem State.goto_fsm (st : Fsm) (s : State) : (s.goto st).fsm = st := rfl
@[simp] theorem State.goto_q (st : Fsm) (s : State) : (s.goto st).q = s.q := rfl
@[simp] theorem State.goto_op (st : Fsm) (s : State) : (s.goto st).op = s.op := rfl
@[simp] theorem State.goto_a (st : Fsm) (s : State) : (s.goto st).a = s.a := rfl
@[simp] theorem State.goto_b (st : Fsm) (s : State) : (s.goto st).b = s.b := rfl
@[simp] theorem State.goto_k (st : Fsm) (s : State) : (s.goto st).k = s.k := rfl
@[simp] theorem State.goto_istart (st : Fsm) (s : State) : (s.goto st).istart = s.istart := rfl
@[simp] theorem State.goto_sayv (st : Fsm) (s : State) : (s.goto st).sayv = s.sayv := rfl
@[simp] theorem State.goto_cnt (st : Fsm) (s : State) : (s.goto st).cnt = s.cnt := rfl
@[simp] theorem State.goto_fkind (st : Fsm) (s : State) : (s.goto st).fkind = s.fkind := rfl
@[simp] theorem State.goto_fop (st : Fsm) (s : State) : (s.goto st).fop = s.fop := rfl
@[simp] theorem State.goto_fpos (st : Fsm) (s : State) : (s.goto st).fpos = s.fpos := rfl
@[simp] theorem State.goto_mem (st : Fsm) (s : State) : (s.goto st).mem = s.mem := rfl
@[simp] theorem State.goto_ann (st : Fsm) (s : State) : (s.goto st).ann = s.ann := rfl
@[simp] theorem State.goto_offers (st : Fsm) (s : State) : (s.goto st).offers = s.offers := rfl
@[simp] theorem State.goto_turns (st : Fsm) (s : State) : (s.goto st).turns = s.turns := rfl
@[simp] theorem State.goto_launch (st : Fsm) (s : State) : (s.goto st).launch = s.launch := rfl
@[simp] theorem State.goto_annBase (st : Fsm) (s : State) : (s.goto st).annBase = s.annBase := rfl
@[simp] theorem State.goto_depth (st : Fsm) (s : State) : (s.goto st).depth = s.depth := rfl

@[simp] theorem State.consume_fsm (rest : List Byte) (s : State) : (s.consume rest).fsm = s.fsm := rfl
@[simp] theorem State.consume_q (rest : List Byte) (s : State) : (s.consume rest).q = rest := rfl
@[simp] theorem State.consume_op (rest : List Byte) (s : State) : (s.consume rest).op = s.op := rfl
@[simp] theorem State.consume_a (rest : List Byte) (s : State) : (s.consume rest).a = s.a := rfl
@[simp] theorem State.consume_b (rest : List Byte) (s : State) : (s.consume rest).b = s.b := rfl
@[simp] theorem State.consume_k (rest : List Byte) (s : State) : (s.consume rest).k = s.k := rfl
@[simp] theorem State.consume_istart (rest : List Byte) (s : State) : (s.consume rest).istart = s.istart := rfl
@[simp] theorem State.consume_sayv (rest : List Byte) (s : State) : (s.consume rest).sayv = s.sayv := rfl
@[simp] theorem State.consume_cnt (rest : List Byte) (s : State) : (s.consume rest).cnt = s.cnt + 1 := rfl
@[simp] theorem State.consume_fkind (rest : List Byte) (s : State) : (s.consume rest).fkind = s.fkind := rfl
@[simp] theorem State.consume_fop (rest : List Byte) (s : State) : (s.consume rest).fop = s.fop := rfl
@[simp] theorem State.consume_fpos (rest : List Byte) (s : State) : (s.consume rest).fpos = s.fpos := rfl
@[simp] theorem State.consume_mem (rest : List Byte) (s : State) : (s.consume rest).mem = s.mem := rfl
@[simp] theorem State.consume_ann (rest : List Byte) (s : State) : (s.consume rest).ann = s.ann := rfl
@[simp] theorem State.consume_offers (rest : List Byte) (s : State) : (s.consume rest).offers = s.offers := rfl
@[simp] theorem State.consume_turns (rest : List Byte) (s : State) : (s.consume rest).turns = s.turns := rfl
@[simp] theorem State.consume_launch (rest : List Byte) (s : State) : (s.consume rest).launch = s.launch := rfl
@[simp] theorem State.consume_annBase (rest : List Byte) (s : State) : (s.consume rest).annBase = s.annBase := rfl
@[simp] theorem State.consume_depth (rest : List Byte) (s : State) : (s.consume rest).depth = s.depth := rfl

@[simp] theorem State.latchOpcode_fsm (pos : Nat) (h : Byte) (s : State) : (s.latchOpcode pos h).fsm = s.fsm := rfl
@[simp] theorem State.latchOpcode_q (pos : Nat) (h : Byte) (s : State) : (s.latchOpcode pos h).q = s.q := rfl
@[simp] theorem State.latchOpcode_op (pos : Nat) (h : Byte) (s : State) : (s.latchOpcode pos h).op = h := rfl
@[simp] theorem State.latchOpcode_a (pos : Nat) (h : Byte) (s : State) : (s.latchOpcode pos h).a = s.a := rfl
@[simp] theorem State.latchOpcode_b (pos : Nat) (h : Byte) (s : State) : (s.latchOpcode pos h).b = s.b := rfl
@[simp] theorem State.latchOpcode_k (pos : Nat) (h : Byte) (s : State) : (s.latchOpcode pos h).k = 0 := rfl
@[simp] theorem State.latchOpcode_istart (pos : Nat) (h : Byte) (s : State) : (s.latchOpcode pos h).istart = pos := rfl
@[simp] theorem State.latchOpcode_sayv (pos : Nat) (h : Byte) (s : State) : (s.latchOpcode pos h).sayv = s.sayv := rfl
@[simp] theorem State.latchOpcode_cnt (pos : Nat) (h : Byte) (s : State) : (s.latchOpcode pos h).cnt = s.cnt := rfl
@[simp] theorem State.latchOpcode_fkind (pos : Nat) (h : Byte) (s : State) : (s.latchOpcode pos h).fkind = s.fkind := rfl
@[simp] theorem State.latchOpcode_fop (pos : Nat) (h : Byte) (s : State) : (s.latchOpcode pos h).fop = s.fop := rfl
@[simp] theorem State.latchOpcode_fpos (pos : Nat) (h : Byte) (s : State) : (s.latchOpcode pos h).fpos = s.fpos := rfl
@[simp] theorem State.latchOpcode_mem (pos : Nat) (h : Byte) (s : State) : (s.latchOpcode pos h).mem = s.mem := rfl
@[simp] theorem State.latchOpcode_ann (pos : Nat) (h : Byte) (s : State) : (s.latchOpcode pos h).ann = s.ann := rfl
@[simp] theorem State.latchOpcode_offers (pos : Nat) (h : Byte) (s : State) : (s.latchOpcode pos h).offers = s.offers := rfl
@[simp] theorem State.latchOpcode_turns (pos : Nat) (h : Byte) (s : State) : (s.latchOpcode pos h).turns = s.turns := rfl
@[simp] theorem State.latchOpcode_launch (pos : Nat) (h : Byte) (s : State) : (s.latchOpcode pos h).launch = s.launch := rfl
@[simp] theorem State.latchOpcode_annBase (pos : Nat) (h : Byte) (s : State) : (s.latchOpcode pos h).annBase = s.annBase := rfl
@[simp] theorem State.latchOpcode_depth (pos : Nat) (h : Byte) (s : State) : (s.latchOpcode pos h).depth = s.depth := rfl

@[simp] theorem State.latchOperand_fsm (c : Byte) (s : State) : (s.latchOperand c).fsm = s.fsm := rfl
@[simp] theorem State.latchOperand_q (c : Byte) (s : State) : (s.latchOperand c).q = s.q := rfl
@[simp] theorem State.latchOperand_op (c : Byte) (s : State) : (s.latchOperand c).op = s.op := rfl
@[simp] theorem State.latchOperand_a (c : Byte) (s : State) : (s.latchOperand c).a = if s.k = 0 then c else s.a := rfl
@[simp] theorem State.latchOperand_b (c : Byte) (s : State) : (s.latchOperand c).b = if s.k = 0 then s.b else c := rfl
@[simp] theorem State.latchOperand_k (c : Byte) (s : State) : (s.latchOperand c).k = s.k + 1 := rfl
@[simp] theorem State.latchOperand_istart (c : Byte) (s : State) : (s.latchOperand c).istart = s.istart := rfl
@[simp] theorem State.latchOperand_sayv (c : Byte) (s : State) : (s.latchOperand c).sayv = s.sayv := rfl
@[simp] theorem State.latchOperand_cnt (c : Byte) (s : State) : (s.latchOperand c).cnt = s.cnt := rfl
@[simp] theorem State.latchOperand_fkind (c : Byte) (s : State) : (s.latchOperand c).fkind = s.fkind := rfl
@[simp] theorem State.latchOperand_fop (c : Byte) (s : State) : (s.latchOperand c).fop = s.fop := rfl
@[simp] theorem State.latchOperand_fpos (c : Byte) (s : State) : (s.latchOperand c).fpos = s.fpos := rfl
@[simp] theorem State.latchOperand_mem (c : Byte) (s : State) : (s.latchOperand c).mem = s.mem := rfl
@[simp] theorem State.latchOperand_ann (c : Byte) (s : State) : (s.latchOperand c).ann = s.ann := rfl
@[simp] theorem State.latchOperand_offers (c : Byte) (s : State) : (s.latchOperand c).offers = s.offers := rfl
@[simp] theorem State.latchOperand_turns (c : Byte) (s : State) : (s.latchOperand c).turns = s.turns := rfl
@[simp] theorem State.latchOperand_launch (c : Byte) (s : State) : (s.latchOperand c).launch = s.launch := rfl
@[simp] theorem State.latchOperand_annBase (c : Byte) (s : State) : (s.latchOperand c).annBase = s.annBase := rfl
@[simp] theorem State.latchOperand_depth (c : Byte) (s : State) : (s.latchOperand c).depth = s.depth := rfl

@[simp] theorem State.memWrite_fsm (a v : Byte) (s : State) : (s.memWrite a v).fsm = s.fsm := rfl
@[simp] theorem State.memWrite_q (a v : Byte) (s : State) : (s.memWrite a v).q = s.q := rfl
@[simp] theorem State.memWrite_op (a v : Byte) (s : State) : (s.memWrite a v).op = s.op := rfl
@[simp] theorem State.memWrite_a (a v : Byte) (s : State) : (s.memWrite a v).a = s.a := rfl
@[simp] theorem State.memWrite_b (a v : Byte) (s : State) : (s.memWrite a v).b = s.b := rfl
@[simp] theorem State.memWrite_k (a v : Byte) (s : State) : (s.memWrite a v).k = s.k := rfl
@[simp] theorem State.memWrite_istart (a v : Byte) (s : State) : (s.memWrite a v).istart = s.istart := rfl
@[simp] theorem State.memWrite_sayv (a v : Byte) (s : State) : (s.memWrite a v).sayv = s.sayv := rfl
@[simp] theorem State.memWrite_cnt (a v : Byte) (s : State) : (s.memWrite a v).cnt = s.cnt := rfl
@[simp] theorem State.memWrite_fkind (a v : Byte) (s : State) : (s.memWrite a v).fkind = s.fkind := rfl
@[simp] theorem State.memWrite_fop (a v : Byte) (s : State) : (s.memWrite a v).fop = s.fop := rfl
@[simp] theorem State.memWrite_fpos (a v : Byte) (s : State) : (s.memWrite a v).fpos = s.fpos := rfl
@[simp] theorem State.memWrite_mem (a v : Byte) (s : State) : (s.memWrite a v).mem = Memory.write a v s.mem := rfl
@[simp] theorem State.memWrite_ann (a v : Byte) (s : State) : (s.memWrite a v).ann = s.ann := rfl
@[simp] theorem State.memWrite_offers (a v : Byte) (s : State) : (s.memWrite a v).offers = s.offers := rfl
@[simp] theorem State.memWrite_turns (a v : Byte) (s : State) : (s.memWrite a v).turns = s.turns := rfl
@[simp] theorem State.memWrite_launch (a v : Byte) (s : State) : (s.memWrite a v).launch = s.launch := rfl
@[simp] theorem State.memWrite_annBase (a v : Byte) (s : State) : (s.memWrite a v).annBase = s.annBase := rfl
@[simp] theorem State.memWrite_depth (a v : Byte) (s : State) : (s.memWrite a v).depth = s.depth := rfl

@[simp] theorem State.announce_fsm (v : Byte) (s : State) : (s.announce v).fsm = s.fsm := rfl
@[simp] theorem State.announce_q (v : Byte) (s : State) : (s.announce v).q = s.q := rfl
@[simp] theorem State.announce_op (v : Byte) (s : State) : (s.announce v).op = s.op := rfl
@[simp] theorem State.announce_a (v : Byte) (s : State) : (s.announce v).a = s.a := rfl
@[simp] theorem State.announce_b (v : Byte) (s : State) : (s.announce v).b = s.b := rfl
@[simp] theorem State.announce_k (v : Byte) (s : State) : (s.announce v).k = s.k := rfl
@[simp] theorem State.announce_istart (v : Byte) (s : State) : (s.announce v).istart = s.istart := rfl
@[simp] theorem State.announce_sayv (v : Byte) (s : State) : (s.announce v).sayv = v := rfl
@[simp] theorem State.announce_cnt (v : Byte) (s : State) : (s.announce v).cnt = s.cnt := rfl
@[simp] theorem State.announce_fkind (v : Byte) (s : State) : (s.announce v).fkind = s.fkind := rfl
@[simp] theorem State.announce_fop (v : Byte) (s : State) : (s.announce v).fop = s.fop := rfl
@[simp] theorem State.announce_fpos (v : Byte) (s : State) : (s.announce v).fpos = s.fpos := rfl
@[simp] theorem State.announce_mem (v : Byte) (s : State) : (s.announce v).mem = s.mem := rfl
@[simp] theorem State.announce_ann (v : Byte) (s : State) : (s.announce v).ann = s.ann ++ [v] := rfl
@[simp] theorem State.announce_offers (v : Byte) (s : State) : (s.announce v).offers = s.offers := rfl
@[simp] theorem State.announce_turns (v : Byte) (s : State) : (s.announce v).turns = s.turns := rfl
@[simp] theorem State.announce_launch (v : Byte) (s : State) : (s.announce v).launch = s.launch := rfl
@[simp] theorem State.announce_annBase (v : Byte) (s : State) : (s.announce v).annBase = s.annBase := rfl
@[simp] theorem State.announce_depth (v : Byte) (s : State) : (s.announce v).depth = s.depth := rfl

@[simp] theorem State.raise_fsm (kind : FaultKind) (s : State) : (s.raise kind).fsm = .fault := rfl
@[simp] theorem State.raise_q (kind : FaultKind) (s : State) : (s.raise kind).q = s.q := rfl
@[simp] theorem State.raise_op (kind : FaultKind) (s : State) : (s.raise kind).op = s.op := rfl
@[simp] theorem State.raise_a (kind : FaultKind) (s : State) : (s.raise kind).a = s.a := rfl
@[simp] theorem State.raise_b (kind : FaultKind) (s : State) : (s.raise kind).b = s.b := rfl
@[simp] theorem State.raise_k (kind : FaultKind) (s : State) : (s.raise kind).k = s.k := rfl
@[simp] theorem State.raise_istart (kind : FaultKind) (s : State) : (s.raise kind).istart = s.istart := rfl
@[simp] theorem State.raise_sayv (kind : FaultKind) (s : State) : (s.raise kind).sayv = s.sayv := rfl
@[simp] theorem State.raise_cnt (kind : FaultKind) (s : State) : (s.raise kind).cnt = s.cnt := rfl
@[simp] theorem State.raise_fkind (kind : FaultKind) (s : State) : (s.raise kind).fkind = kind := rfl
@[simp] theorem State.raise_fop (kind : FaultKind) (s : State) : (s.raise kind).fop = s.op := rfl
@[simp] theorem State.raise_fpos (kind : FaultKind) (s : State) : (s.raise kind).fpos = s.istart := rfl
@[simp] theorem State.raise_mem (kind : FaultKind) (s : State) : (s.raise kind).mem = s.mem := rfl
@[simp] theorem State.raise_ann (kind : FaultKind) (s : State) : (s.raise kind).ann = s.ann := rfl
@[simp] theorem State.raise_offers (kind : FaultKind) (s : State) : (s.raise kind).offers = s.offers := rfl
@[simp] theorem State.raise_turns (kind : FaultKind) (s : State) : (s.raise kind).turns = s.turns := rfl
@[simp] theorem State.raise_launch (kind : FaultKind) (s : State) : (s.raise kind).launch = s.launch := rfl
@[simp] theorem State.raise_annBase (kind : FaultKind) (s : State) : (s.raise kind).annBase = s.annBase := rfl
@[simp] theorem State.raise_depth (kind : FaultKind) (s : State) : (s.raise kind).depth = s.depth := rfl

@[simp] theorem State.push_fsm (v : Byte) (s : State) : (s.push v).fsm = s.fsm := rfl
@[simp] theorem State.push_q (v : Byte) (s : State) : (s.push v).q = s.q ++ [v] := rfl
@[simp] theorem State.push_op (v : Byte) (s : State) : (s.push v).op = s.op := rfl
@[simp] theorem State.push_a (v : Byte) (s : State) : (s.push v).a = s.a := rfl
@[simp] theorem State.push_b (v : Byte) (s : State) : (s.push v).b = s.b := rfl
@[simp] theorem State.push_k (v : Byte) (s : State) : (s.push v).k = s.k := rfl
@[simp] theorem State.push_istart (v : Byte) (s : State) : (s.push v).istart = s.istart := rfl
@[simp] theorem State.push_sayv (v : Byte) (s : State) : (s.push v).sayv = s.sayv := rfl
@[simp] theorem State.push_cnt (v : Byte) (s : State) : (s.push v).cnt = s.cnt := rfl
@[simp] theorem State.push_fkind (v : Byte) (s : State) : (s.push v).fkind = s.fkind := rfl
@[simp] theorem State.push_fop (v : Byte) (s : State) : (s.push v).fop = s.fop := rfl
@[simp] theorem State.push_fpos (v : Byte) (s : State) : (s.push v).fpos = s.fpos := rfl
@[simp] theorem State.push_mem (v : Byte) (s : State) : (s.push v).mem = s.mem := rfl
@[simp] theorem State.push_ann (v : Byte) (s : State) : (s.push v).ann = s.ann := rfl
@[simp] theorem State.push_offers (v : Byte) (s : State) : (s.push v).offers = s.offers := rfl
@[simp] theorem State.push_turns (v : Byte) (s : State) : (s.push v).turns = s.turns := rfl
@[simp] theorem State.push_launch (v : Byte) (s : State) : (s.push v).launch = s.launch := rfl
@[simp] theorem State.push_annBase (v : Byte) (s : State) : (s.push v).annBase = s.annBase := rfl
@[simp] theorem State.push_depth (v : Byte) (s : State) : (s.push v).depth = s.depth := rfl

@[simp] theorem State.dropTurn_fsm (s : State) : s.dropTurn.fsm = s.fsm := rfl
@[simp] theorem State.dropTurn_q (s : State) : s.dropTurn.q = s.q := rfl
@[simp] theorem State.dropTurn_op (s : State) : s.dropTurn.op = s.op := rfl
@[simp] theorem State.dropTurn_a (s : State) : s.dropTurn.a = s.a := rfl
@[simp] theorem State.dropTurn_b (s : State) : s.dropTurn.b = s.b := rfl
@[simp] theorem State.dropTurn_k (s : State) : s.dropTurn.k = s.k := rfl
@[simp] theorem State.dropTurn_istart (s : State) : s.dropTurn.istart = s.istart := rfl
@[simp] theorem State.dropTurn_sayv (s : State) : s.dropTurn.sayv = s.sayv := rfl
@[simp] theorem State.dropTurn_cnt (s : State) : s.dropTurn.cnt = s.cnt := rfl
@[simp] theorem State.dropTurn_fkind (s : State) : s.dropTurn.fkind = s.fkind := rfl
@[simp] theorem State.dropTurn_fop (s : State) : s.dropTurn.fop = s.fop := rfl
@[simp] theorem State.dropTurn_fpos (s : State) : s.dropTurn.fpos = s.fpos := rfl
@[simp] theorem State.dropTurn_mem (s : State) : s.dropTurn.mem = s.mem := rfl
@[simp] theorem State.dropTurn_ann (s : State) : s.dropTurn.ann = s.ann := rfl
@[simp] theorem State.dropTurn_offers (s : State) : s.dropTurn.offers = s.offers := rfl
@[simp] theorem State.dropTurn_turns (s : State) : s.dropTurn.turns = s.turns.tail := rfl
@[simp] theorem State.dropTurn_launch (s : State) : s.dropTurn.launch = s.launch := rfl
@[simp] theorem State.dropTurn_annBase (s : State) : s.dropTurn.annBase = s.annBase := rfl
@[simp] theorem State.dropTurn_depth (s : State) : s.dropTurn.depth = s.depth := rfl

@[simp] theorem State.resetStep_fsm (s : State) : s.resetStep.fsm = .idle := rfl
@[simp] theorem State.resetStep_q (s : State) : s.resetStep.q = [] := rfl
@[simp] theorem State.resetStep_op (s : State) : s.resetStep.op = 0 := rfl
@[simp] theorem State.resetStep_a (s : State) : s.resetStep.a = 0 := rfl
@[simp] theorem State.resetStep_b (s : State) : s.resetStep.b = 0 := rfl
@[simp] theorem State.resetStep_k (s : State) : s.resetStep.k = 0 := rfl
@[simp] theorem State.resetStep_istart (s : State) : s.resetStep.istart = 0 := rfl
@[simp] theorem State.resetStep_sayv (s : State) : s.resetStep.sayv = 0 := rfl
@[simp] theorem State.resetStep_cnt (s : State) : s.resetStep.cnt = 0 := rfl
@[simp] theorem State.resetStep_fkind (s : State) : s.resetStep.fkind = .noFault := rfl
@[simp] theorem State.resetStep_fop (s : State) : s.resetStep.fop = 0 := rfl
@[simp] theorem State.resetStep_fpos (s : State) : s.resetStep.fpos = 0 := rfl
@[simp] theorem State.resetStep_mem (s : State) : s.resetStep.mem = [] := rfl
@[simp] theorem State.resetStep_ann (s : State) : s.resetStep.ann = s.ann := rfl
@[simp] theorem State.resetStep_offers (s : State) : s.resetStep.offers = s.offers := rfl
@[simp] theorem State.resetStep_turns (s : State) : s.resetStep.turns = s.turns := rfl
@[simp] theorem State.resetStep_launch (s : State) : s.resetStep.launch = s.launch + 1 := rfl
@[simp] theorem State.resetStep_annBase (s : State) : s.resetStep.annBase = s.ann.length := rfl
@[simp] theorem State.resetStep_depth (s : State) : s.resetStep.depth = s.depth := rfl

/-- Reading a cell depends on the launch and the memory list alone. -/
theorem State.memRead_congr {s t : State} (hl : t.launch = s.launch) (hm : t.mem = s.mem) (a : Byte) :
    t.memRead a = s.memRead a := by
  simp only [State.memRead, hl, hm]

@[simp] theorem State.goto_memRead (st : Fsm) (s : State) (addr : Byte) : (s.goto st).memRead addr = s.memRead addr := rfl
@[simp] theorem State.consume_memRead (rest : List Byte) (s : State) (addr : Byte) : (s.consume rest).memRead addr = s.memRead addr := rfl
@[simp] theorem State.latchOpcode_memRead (pos : Nat) (h : Byte) (s : State) (addr : Byte) : (s.latchOpcode pos h).memRead addr = s.memRead addr := rfl
@[simp] theorem State.latchOperand_memRead (c : Byte) (s : State) (addr : Byte) : (s.latchOperand c).memRead addr = s.memRead addr := rfl
@[simp] theorem State.announce_memRead (v : Byte) (s : State) (addr : Byte) : (s.announce v).memRead addr = s.memRead addr := rfl
@[simp] theorem State.raise_memRead (kind : FaultKind) (s : State) (addr : Byte) : (s.raise kind).memRead addr = s.memRead addr := rfl
@[simp] theorem State.push_memRead (v : Byte) (s : State) (addr : Byte) : (s.push v).memRead addr = s.memRead addr := rfl
@[simp] theorem State.dropTurn_memRead (s : State) (addr : Byte) : s.dropTurn.memRead addr = s.memRead addr := rfl

end Sys2Proof.Machine
end

