-- ==== Sys2Proof/Laws/Memory.lean ====
section
/-! SUPPORT. The laws of the memory list: what a write does to every lookup, and that it keeps the canonical form. -/

namespace Sys2Proof.Machine

theorem Memory.lookup_insert (a : Nat) (v : Byte) (m : List Host.Cell) (b : Nat) :
    Memory.lookup (Memory.insert a v m) b = if a = b then some v else Memory.lookup m b := by
  induction m with
  | nil => simp [Memory.insert, Memory.lookup]
  | cons c rest ih =>
    obtain ⟨k, w⟩ := c
    unfold Memory.insert
    split
    · simp [Memory.lookup]
    · split
      · rename_i h
        subst h
        by_cases hb : a = b <;> simp [Memory.lookup, hb]
      · rename_i h
        by_cases hk : k = b
        · have : a ≠ b := fun e => h (e.trans hk.symm)
          simp [Memory.lookup, hk, this]
        · simp [Memory.lookup, hk, ih]

theorem Memory.insert_insert (a : Nat) (v w : Byte) (m : List Host.Cell) :
    Memory.insert a w (Memory.insert a v m) = Memory.insert a w m := by
  induction m with
  | nil => simp [Memory.insert]
  | cons c rest ih =>
    obtain ⟨k, u⟩ := c
    by_cases h1 : a < k
    · simp [Memory.insert, h1]
    · by_cases h2 : a = k
      · simp [Memory.insert, h2]
      · simp [Memory.insert, h1, h2, ih]

theorem Memory.mem_insert {a : Nat} {v : Byte} {m : List Host.Cell} {c : Host.Cell}
    (h : c ∈ Memory.insert a v m) : c = (a, v) ∨ c ∈ m := by
  induction m with
  | nil => simpa [Memory.insert] using h
  | cons d rest ih =>
    obtain ⟨k, w⟩ := d
    unfold Memory.insert at h
    split at h
    · simpa using h
    · split at h
      · rcases List.mem_cons.1 h with h | h
        · exact .inl h
        · exact .inr (List.mem_cons_of_mem _ h)
      · rcases List.mem_cons.1 h with h | h
        · exact .inr (h ▸ List.mem_cons_self)
        · exact (ih h).imp id (List.mem_cons_of_mem _)

/-- A write keeps the canonical form. -/
theorem Memory.insert_wf {a : Nat} {v : Byte} {m : List Host.Cell} (ha : a < Config.memSize) (h : Memory.wf m) :
    Memory.wf (Memory.insert a v m) := by
  refine ⟨?_, fun c hc => ?_⟩
  · obtain ⟨hp, -⟩ := h
    induction m with
    | nil => simp [Memory.insert]
    | cons d rest ih =>
      obtain ⟨k, w⟩ := d
      obtain ⟨hk, hrest⟩ := List.pairwise_cons.1 hp
      unfold Memory.insert
      split
      · rename_i hlt
        refine List.pairwise_cons.2 ⟨fun c hc => ?_, hp⟩
        rcases List.mem_cons.1 hc with rfl | hc
        · exact hlt
        · exact Nat.lt_trans hlt (hk c hc)
      · split
        · rename_i h2
          subst h2
          exact List.pairwise_cons.2 ⟨hk, hrest⟩
        · refine List.pairwise_cons.2 ⟨fun c hc => ?_, ih hrest⟩
          rcases Memory.mem_insert hc with rfl | hc
          · change k < a
            omega
          · exact hk c hc
  · rcases Memory.mem_insert hc with rfl | hc
    · exact ha
    · exact h.2 c hc

/-- `MemWrite` keeps the canonical form: every byte is an address (20_memory.md R53). -/
theorem Memory.write_wf (a v : Byte) {m : List Host.Cell} (h : Memory.wf m) : Memory.wf (Memory.write a v m) :=
  Memory.insert_wf a.isLt h

/-- Reset's memory has the canonical form. -/
theorem Memory.reset_wf : Memory.wf State.reset.mem := by decide

theorem Memory.read_write (launch : Nat) (a v : Byte) (m : List Host.Cell) (b : Byte) :
    Memory.read launch (Memory.write a v m) b = if b = a then v else Memory.read launch m b := by
  unfold Memory.read Memory.write
  rw [Memory.lookup_insert]
  by_cases h : b = a
  · simp [h]
  · have : a.toNat ≠ b.toNat := fun e => h (BitVec.eq_of_toNat_eq e).symm
    simp [h, this]

theorem State.memRead_memWrite (a v : Byte) (s : State) (b : Byte) :
    (s.memWrite a v).memRead b = if b = a then v else s.memRead b := Memory.read_write _ _ _ _ _

end Sys2Proof.Machine
end

