-- ==== Sys2Proof/Laws/Exec.lean ====
section
/-! SUPPORT. One lemma for each shared operation of the EXEC steps and for each meaning: all it can answer. -/

namespace Sys2Proof.Machine

/-- The range check of an address operand always passes (20_memory.md R53). -/
@[simp] theorem addrInRange_memSize (a : Byte) : addrInRange Config.memSize a = true := by
  have := a.isLt
  simp [addrInRange, Config.memSize, zext]
  omega

theorem sum9_toNat (x y : Byte) : (sum9 x y).toNat = x.toNat + y.toNat := by
  have := x.isLt
  have := y.isLt
  simp [sum9, zext, BitVec.toNat_add]
  omega

theorem sumOverflows_iff (x y : Byte) : sumOverflows (sum9 x y) = true ↔ 255 < x.toNat + y.toNat := by
  simp [sumOverflows, sum9_toNat]

theorem sumByte_toNat {x y : Byte} (h : x.toNat + y.toNat ≤ 255) :
    (sumByte (sum9 x y)).toNat = x.toNat + y.toNat := by
  simp [sumByte, sum9_toNat]
  omega

theorem execLoad_eq (addr val : Byte) (s : State) :
    execLoad addr val s = .next ((s.memWrite addr val).goto .fetch) := by
  simp [execLoad]

theorem execAdd_eq (x y : Byte) (s : State) :
    execAdd x y s = .next (
      if 255 < (s.memRead x).toNat + (s.memRead y).toNat then s.raise .arithmeticOverflow
      else (s.memWrite x (sumByte (sum9 (s.memRead x) (s.memRead y)))).goto .fetch) := by
  simp only [execAdd, addrInRange_memSize, Bool.not_true, Bool.false_eq_true, if_false, sumOverflows_iff]

theorem execSay_eq (addr : Byte) (s : State) :
    execSay addr s = .next ((s.announce (s.memRead addr)).goto .sayWait) := by
  simp [execSay]

theorem execRet_eq (s : State) : execRet s = .next (s.goto .fetch) := rfl

/-- Every instruction is well-formed on this hardware. -/
theorem wellFormed_always (i : Instr) : i.wellFormed = true := by
  cases i <;> simp [Instr.wellFormed, Instr.wellFormedFor]

end Sys2Proof.Machine
end

