-- ==== Sys2Proof/Laws/PerInstr.lean ====
section
/-! SUPPORT. A family of statements made per instruction: the shape of its encoding. -/

/-- The first byte of the encoding is in the opcode table, and the encoding is as long as that byte says:
`length(op) = 1 + nopnd(op)` (30_encoding.md R71, R75). -/
def Sys2Proof.Laws.EncodingShape.Statement (i : Sys2Proof.Instr) : Prop :=
  ∃ op operands, Sys2Proof.encode i = op :: operands ∧ Sys2Proof.nopnd op = some operands.length

theorem Sys2Proof.Laws.EncodingShape.load (addr val : Sys2Proof.Byte) :
    Sys2Proof.Laws.EncodingShape.Statement (.load addr val) := ⟨_, _, rfl, rfl⟩

theorem Sys2Proof.Laws.EncodingShape.add (x y : Sys2Proof.Byte) :
    Sys2Proof.Laws.EncodingShape.Statement (.add x y) := ⟨_, _, rfl, rfl⟩

theorem Sys2Proof.Laws.EncodingShape.say (addr : Sys2Proof.Byte) :
    Sys2Proof.Laws.EncodingShape.Statement (.say addr) := ⟨_, _, rfl, rfl⟩

theorem Sys2Proof.Laws.EncodingShape.ret : Sys2Proof.Laws.EncodingShape.Statement .ret := ⟨_, _, rfl, rfl⟩
end

