-- ==== Sys2Proof/Laws/Step.lean ====
section
/-! SUPPORT. What one step can do: an inversion for each agent and each FSM state, which later proofs cite. -/

namespace Sys2Proof.Machine

/-- A step is the atomic action of the agent whose turn it is. -/
theorem step_of_turn {s : State} {t : Turn} (h : s.nextTurn = t) : step s = agentStep t s.dropTurn := by
  rw [step, h]

theorem dropTurn_of_nil {s : State} (h : s.turns = []) : s.dropTurn = s := by
  cases s
  simp_all [State.dropTurn]

/-- All the fetch step can do (40 R104, R105). -/
theorem fetchStep_cases (s : State) :
    (s.q = [] ∧ fetchStep s = s.goto .idle)
    ∨ ∃ h rest, s.q = h :: rest ∧
      ((nopnd h = none ∧ fetchStep s = ((s.consume rest).latchOpcode s.cnt h).raise .unknownOpcode)
      ∨ (nopnd h = some 0 ∧ fetchStep s = ((s.consume rest).latchOpcode s.cnt h).goto .exec)
      ∨ ∃ n, nopnd h = some (n + 1) ∧ fetchStep s = ((s.consume rest).latchOpcode s.cnt h).goto .opnd) := by
  rcases hq : s.q with _ | ⟨h, rest⟩
  · exact .inl ⟨rfl, by simp [fetchStep, State.pop, hq]⟩
  · refine .inr ⟨h, rest, rfl, ?_⟩
    rcases hn : nopnd h with _ | _ | n
    · exact .inl ⟨rfl, by simp [fetchStep, State.pop, hq, hn]⟩
    · exact .inr (.inl ⟨rfl, by simp [fetchStep, State.pop, hq, hn]⟩)
    · exact .inr (.inr ⟨n, rfl, by simp [fetchStep, State.pop, hq, hn]⟩)

/-- After an operand the FSM is in EXEC, with the last one, or in OPND. -/
theorem afterOperand_cases (c n : Nat) :
    (c = n ∧ afterOperand c n = .exec) ∨ (c ≠ n ∧ afterOperand c n = .opnd) := by
  by_cases h : c = n <;> simp [afterOperand, h]

/-- All the operand step can do (40 R107, R108). -/
theorem operandStep_cases (s : State) :
    (s.q = [] ∧ operandStep s = .next (s.raise .starvedOperand))
    ∨ ∃ c rest, s.q = c :: rest ∧
      ((nopnd s.op = none ∧ operandStep s = .refused .illFormedState)
      ∨ ∃ n, nopnd s.op = some n ∧ operandStep s
          = .next (((s.consume rest).latchOperand c).goto (afterOperand (s.k + 1) n))) := by
  rcases hq : s.q with _ | ⟨c, rest⟩
  · exact .inl ⟨rfl, by simp [operandStep, State.pop, hq]⟩
  · refine .inr ⟨c, rest, rfl, ?_⟩
    rcases hn : nopnd s.op with _ | n
    · exact .inl ⟨rfl, by simp [operandStep, State.pop, hq, hn]⟩
    · exact .inr ⟨n, rfl, by simp [operandStep, State.pop, hq, hn]⟩

/-- All the EXEC step can do (40 R109, 41 R130, R131, 42 R150, R151). -/
theorem execStep_cases (s : State) :
    (s.op = 0x10 ∧ execStep s = .next ((s.memWrite s.a s.b).goto .fetch))
    ∨ (s.op = 0x11 ∧ 255 < (s.memRead s.a).toNat + (s.memRead s.b).toNat
        ∧ execStep s = .next (s.raise .arithmeticOverflow))
    ∨ (s.op = 0x11 ∧ ¬ 255 < (s.memRead s.a).toNat + (s.memRead s.b).toNat
        ∧ execStep s = .next ((s.memWrite s.a (sumByte (sum9 (s.memRead s.a) (s.memRead s.b)))).goto .fetch))
    ∨ (s.op = 0x12 ∧ execStep s = .next ((s.announce (s.memRead s.a)).goto .sayWait))
    ∨ (s.op = 0x13 ∧ execStep s = .next (s.goto .fetch))
    ∨ (nopnd s.op = none ∧ execStep s = .refused .illFormedState) := by
  rcases State.latched_cases s with ⟨h, e⟩ | ⟨h, e⟩ | ⟨h, e⟩ | ⟨h, e⟩ | ⟨h, e⟩
  · exact .inl ⟨h, by simp only [execStep, e, exec, execLoad_eq]⟩
  · by_cases ho : 255 < (s.memRead s.a).toNat + (s.memRead s.b).toNat
    · exact .inr (.inl ⟨h, ho, by simp only [execStep, e, exec, execAdd_eq, if_pos ho]⟩)
    · exact .inr (.inr (.inl ⟨h, ho, by simp only [execStep, e, exec, execAdd_eq, if_neg ho]⟩))
  · exact .inr (.inr (.inr (.inl ⟨h, by simp only [execStep, e, exec, execSay_eq]⟩)))
  · exact .inr (.inr (.inr (.inr (.inl ⟨h, by simp only [execStep, e, exec, execRet_eq]⟩))))
  · exact .inr (.inr (.inr (.inr (.inr ⟨h, by simp only [execStep, e]⟩))))

theorem execStep_load {s : State} (h : s.op = 0x10) : execStep s = .next ((s.memWrite s.a s.b).goto .fetch) := by
  obtain ⟨-, e⟩ | ⟨ho, -⟩ | ⟨ho, -⟩ | ⟨ho, -⟩ | ⟨ho, -⟩ | ⟨ho, -⟩ := execStep_cases s
  · exact e
  all_goals
    rw [h] at ho
    exact absurd ho (by decide)

theorem execStep_add {s : State} (h : s.op = 0x11) :
    execStep s = .next (
      if 255 < (s.memRead s.a).toNat + (s.memRead s.b).toNat then s.raise .arithmeticOverflow
      else (s.memWrite s.a (sumByte (sum9 (s.memRead s.a) (s.memRead s.b)))).goto .fetch) := by
  obtain ⟨ho, -⟩ | ⟨-, hs, e⟩ | ⟨-, hs, e⟩ | ⟨ho, -⟩ | ⟨ho, -⟩ | ⟨ho, -⟩ := execStep_cases s
  · rw [h] at ho
    exact absurd ho (by decide)
  · rw [e, if_pos hs]
  · rw [e, if_neg hs]
  all_goals
    rw [h] at ho
    exact absurd ho (by decide)

theorem execStep_say {s : State} (h : s.op = 0x12) :
    execStep s = .next ((s.announce (s.memRead s.a)).goto .sayWait) := by
  obtain ⟨ho, -⟩ | ⟨ho, -⟩ | ⟨ho, -⟩ | ⟨-, e⟩ | ⟨ho, -⟩ | ⟨ho, -⟩ := execStep_cases s
  · rw [h] at ho
    exact absurd ho (by decide)
  · rw [h] at ho
    exact absurd ho (by decide)
  · rw [h] at ho
    exact absurd ho (by decide)
  · exact e
  all_goals
    rw [h] at ho
    exact absurd ho (by decide)

theorem execStep_ret {s : State} (h : s.op = 0x13) : execStep s = .next (s.goto .fetch) := by
  simp [execStep, State.latched, decode, decodeOpcode, h, exec, execRet_eq]

/-- All the FSM's turn can do, by the state it finds. -/
theorem fsmStep_cases (s : State) :
    (s.fsm = .fetch ∧ fsmStep s = .next (fetchStep s)) ∨ (s.fsm = .opnd ∧ fsmStep s = operandStep s)
    ∨ (s.fsm = .exec ∧ fsmStep s = execStep s)
    ∨ ((s.fsm = .idle ∨ s.fsm = .sayWait ∨ s.fsm = .fault) ∧ fsmStep s = .next s) := by
  rcases h : s.fsm <;> simp [fsmStep, h]

/-- All the producer's turn can do (40 R110, R111). -/
theorem producerStep_cases (s : State) :
    producerStep s = s ∨ ∃ v rest, s.offers = v :: rest ∧ depthHasRoom s.depth s.q.length = true
      ∧ producerStep s = { s.push v with offers := rest } := by
  rcases ho : s.offers with _ | ⟨v, rest⟩
  · exact .inl (by simp [producerStep, ho])
  · by_cases hr : depthHasRoom s.depth s.q.length = true
    · exact .inr ⟨v, rest, rfl, hr, by simp [producerStep, ho, hr]⟩
    · exact .inl (by simp [producerStep, ho, hr])

/-- All a run command can do (40 R102, R114). -/
theorem runStep_cases (s : State) :
    (s.fsm = .idle ∧ s.q ≠ [] ∧ runStep s = s.goto .fetch) ∨ ((s.fsm ≠ .idle ∨ s.q = []) ∧ runStep s = s) := by
  rcases hf : s.fsm <;> rcases hq : s.q with _ | ⟨h, rest⟩ <;> simp [runStep, hf, hq]

/-- All a completion can do (40 R112). -/
theorem sinkStep_cases (s : State) :
    (s.fsm = .sayWait ∧ sinkStep s = s.goto .fetch) ∨ (s.fsm ≠ .sayWait ∧ sinkStep s = s) := by
  by_cases h : s.fsm = .sayWait <;> simp [sinkStep, h]

/-- What an operand step that answers a next state did. -/
theorem operandStep_next {s t : State} (h : operandStep s = .next t) :
    (s.q = [] ∧ t = s.raise .starvedOperand)
    ∨ ∃ c rest n, s.q = c :: rest ∧ nopnd s.op = some n
      ∧ t = ((s.consume rest).latchOperand c).goto (afterOperand (s.k + 1) n) := by
  obtain ⟨hq, e⟩ | ⟨c, rest, hq, ⟨-, e⟩ | ⟨n, hn, e⟩⟩ := operandStep_cases s <;> rw [e] at h <;> cases h
  · exact .inl ⟨hq, rfl⟩
  · exact .inr ⟨c, rest, n, hq, hn, rfl⟩

/-- What an EXEC step that answers a next state did. -/
theorem execStep_next {s t : State} (h : execStep s = .next t) :
    (s.op = 0x10 ∧ t = (s.memWrite s.a s.b).goto .fetch)
    ∨ (s.op = 0x11 ∧ 255 < (s.memRead s.a).toNat + (s.memRead s.b).toNat ∧ t = s.raise .arithmeticOverflow)
    ∨ (s.op = 0x11 ∧ ¬ 255 < (s.memRead s.a).toNat + (s.memRead s.b).toNat
        ∧ t = (s.memWrite s.a (sumByte (sum9 (s.memRead s.a) (s.memRead s.b)))).goto .fetch)
    ∨ (s.op = 0x12 ∧ t = (s.announce (s.memRead s.a)).goto .sayWait)
    ∨ (s.op = 0x13 ∧ t = s.goto .fetch) := by
  obtain ⟨ho, e⟩ | ⟨ho, hs, e⟩ | ⟨ho, hs, e⟩ | ⟨ho, e⟩ | ⟨ho, e⟩ | ⟨-, e⟩ := execStep_cases s <;> rw [e] at h <;> cases h
  · exact .inl ⟨ho, rfl⟩
  · exact .inr (.inl ⟨ho, hs, rfl⟩)
  · exact .inr (.inr (.inl ⟨ho, hs, rfl⟩))
  · exact .inr (.inr (.inr (.inl ⟨ho, rfl⟩)))
  · exact .inr (.inr (.inr (.inr ⟨ho, rfl⟩)))

/-- Everything a step that answers a next state can have done: whose turn it was and what that agent did. -/
theorem step_next {s t : State} (h : step s = .next t) :
    (s.nextTurn = .fsm ∧
      ((s.fsm = .fetch ∧ t = fetchStep s.dropTurn) ∨ (s.fsm = .opnd ∧ operandStep s.dropTurn = .next t)
      ∨ (s.fsm = .exec ∧ execStep s.dropTurn = .next t)
      ∨ ((s.fsm = .idle ∨ s.fsm = .sayWait ∨ s.fsm = .fault) ∧ t = s.dropTurn)))
    ∨ (s.nextTurn = .producer ∧ t = producerStep s.dropTurn)
    ∨ (s.nextTurn = .run ∧ t = runStep s.dropTurn)
    ∨ (s.nextTurn = .sink ∧ t = sinkStep s.dropTurn)
    ∨ (s.nextTurn = .reset ∧ t = s.dropTurn.resetStep) := by
  rcases ht : s.nextTurn <;> rw [step_of_turn ht] at h <;> simp only [agentStep, Host.Outcome.next.injEq] at h
  · refine .inl ⟨rfl, ?_⟩
    obtain ⟨hf, e⟩ | ⟨hf, e⟩ | ⟨hf, e⟩ | ⟨hf, e⟩ := fsmStep_cases s.dropTurn <;> rw [e] at h
    · cases h
      exact .inl ⟨hf, rfl⟩
    · exact .inr (.inl ⟨hf, h⟩)
    · exact .inr (.inr (.inl ⟨hf, h⟩))
    · cases h
      exact .inr (.inr (.inr ⟨hf, rfl⟩))
  all_goals simp [h]

/-- The host's word for a table instruction is fetched: the very next step executes what the decoder reads from it, in
the state of the fetched instruction with the FSM's turn used up. -/
theorem step_withFetchWord {s : State} {nbits w : Nat} {i : Instr} (h : decodeTableWord nbits w = some i) :
    step (s.withFetchWord nbits w) = exec i (s.withFetchWord nbits w).dropTurn := by
  unfold decodeTableWord wordBytes at h
  rcases decodeOpcode_cases (wordByte nbits w 0) with ⟨e, hd⟩ | ⟨e, hd⟩ | ⟨e, hd⟩ | ⟨e, hd⟩ | ⟨-, -, -, -, hd⟩ <;>
    simp only [decode, hd, decodeLoad, decodeAdd, decodeSay, Option.some.injEq, reduceCtorEq] at h
  all_goals
    subst h
    rcases hts : s.turns with _ | ⟨t, ts⟩ <;>
      simp [step, State.nextTurn, State.withFetchWord, placeInstr, nopnd, hd, operandCount, hts, fsmTurnFirst, agentStep,
        fsmStep, execStep, State.latched, decode, decodeLoad, decodeAdd, decodeSay, State.dropTurn]

end Sys2Proof.Machine
end

