-- ==== Sys2Proof/Laws/Run.lean ====
section
/-! SUPPORT. Runs of the host's machine, one step at a time, and the queue's capacity. -/

namespace Sys2Proof.Machine

theorem run_zero (s : State) : Host.Core.run core 0 s = .next s := rfl

theorem run_succ_of_next {s t : State} (h : step s = .next t) (n : Nat) :
    Host.Core.run core (n + 1) s = Host.Core.run core n t := by
  have hs : core.step s = .next t := h
  simp only [Host.Core.run, hs]

/-- A run in two parts. -/
theorem run_add_of_next {n : Nat} {s t : State} (h : Host.Core.run core n s = .next t) (m : Nat) :
    Host.Core.run core (n + m) s = Host.Core.run core m t := by
  induction n generalizing s with
  | zero =>
    cases h
    rw [Nat.zero_add]
  | succ n ih =>
    rw [Nat.add_right_comm]
    rcases hs : step s with u | r | r
    · rw [run_succ_of_next hs] at h ⊢
      exact ih h
    · exact r.casesOn
    · have hc : core.step s = .refused r := hs
      simp only [Host.Core.run, hc, reduceCtorEq] at h

theorem depthFits_of_le {d : QueueDepth} {n m : Nat} (h : depthFits d n = true) (hm : m ≤ n) :
    depthFits d m = true := by
  cases d with
  | unbounded => rfl
  | bounded c =>
    simp only [depthFits, decide_eq_true_eq] at h ⊢
    omega

/-- One more byte fits where there is room for it. -/
theorem depthFits_of_room {d : QueueDepth} {n : Nat} (h : depthHasRoom d n = true) : depthFits d (n + 1) = true := by
  cases d with
  | unbounded => rfl
  | bounded c =>
    simp only [depthFits, depthHasRoom, decide_eq_true_eq] at h ⊢
    omega

/-- "`enq_ready` = 1" after reset, whatever the depth, which is at least 1 (10_state.md R34). -/
theorem depthHasRoom_zero (d : QueueDepth) : depthHasRoom d 0 = true := by
  cases d <;> simp [depthHasRoom]

end Sys2Proof.Machine
end

