-- ==== Sys2Proof/Tests/Slice0.lean ====
section
/-! SUPPORT. Small tests. Expected results come from the vectors of 95_test_vectors.md (W, V, P numbers) or are worked
out from the rules by hand; a `test_premises_` theorem shows a state that meets the hypotheses of the obligation it
names. -/

namespace Sys2Proof.Tests

open Sys2Proof Sys2Proof.Machine

/-! ## Well-formed instructions: each check refuses an ill-formed term (20 R53) -/

theorem test_wellFormed_refuses_load_addr : Instr.wellFormedFor 16 (.load 0x10 0x00) = false := by decide
theorem test_wellFormed_refuses_add_x : Instr.wellFormedFor 16 (.add 0x10 0x00) = false := by decide
theorem test_wellFormed_refuses_add_y : Instr.wellFormedFor 16 (.add 0x00 0xFF) = false := by decide
theorem test_wellFormed_refuses_say_addr : Instr.wellFormedFor 16 (.say 0x80) = false := by decide
theorem test_wellFormed_top_address : Instr.wellFormed (.add 0xFF 0xFF) = true := by decide

/-! ## Decoding: words written out from 30 R72 -/

/-- W1: `10 00 17`. -/
theorem test_decode_load : decode [0x10#8, 0x00#8, 0x17#8] = .ok (.load 0x00 0x17, []) := by decide
/-- W1: `11 00 01`, then the next instruction's bytes. -/
theorem test_decode_add : decode [0x11#8, 0x00#8, 0x01#8, 0x12#8, 0x00#8] = .ok (.add 0x00 0x01, [0x12, 0x00]) := by decide
/-- V51: `12 FF`. -/
theorem test_decode_say : decode [0x12#8, 0xFF#8] = .ok (.say 0xFF, []) := by decide
/-- V60: `13`. -/
theorem test_decode_ret : decode [0x13#8] = .ok (.ret, []) := by decide
/-- V9: an operand equal to an opcode is an operand. -/
theorem test_decode_operand_not_opcode : decode [0x10#8, 0x13#8, 0x12#8] = .ok (.load 0x13 0x12, []) := by decide
/-- V4, V5: the bytes on either side of the table. -/
theorem test_decode_unknown :
    decode [0x0F#8, 0x00#8] = .error (.unknownOpcode 0x0F) ∧ decode [0x14#8] = .error (.unknownOpcode 0x14) := by decide
/-- W2: `10 05` lacks its value. -/
theorem test_decode_starved : decode [0x10#8, 0x05#8] = .error (.starvedOperand 0x10) := by decide
/-- The table word of `10 00 17`: its first byte is the least significant. -/
theorem test_tableWord_load : decodeTableWord 24 0x170010 = some (.load 0x00 0x17) := by decide
theorem test_tableWord_short : decodeTableWord 8 0x11 = some (.add 0x00 0x00) := by decide
/-- The first instructions of W1. -/
theorem test_decodeProgram :
    decodeProgram [0x10, 0x00, 0x17, 0x11, 0x00, 0x01, 0x12, 0x00, 0x13]
      = .ok [.load 0x00 0x17, .add 0x00 0x01, .say 0x00, .ret] := by decide
/-- 30 R80 with operands in either base, P2's first line. -/
theorem test_assemble :
    assemble ['L', 'O', 'A', 'D', ' ', ' ', '0', ',', ' ', '0', 'x', '1', 'F'] = some (.load 0 0x1F)
    ∧ assemble ['S', 'A', 'Y', ' ', '0', 'x', 'a', '9'] = some (.say 0xA9)
    ∧ assemble ['S', 'A', 'Y', ' ', '0', 'x', 'G', '0'] = none
    ∧ assemble ['S', 'A', 'Y', ' ', '2', '5', '6'] = none := by decide

/-! ## States for one step -/

/-- A state in FSM state `f` with these queued bytes and turns, an unbounded queue, all else as after reset. -/
def stateAt (f : Fsm) (q : List Byte) (turns : List Turn) : State :=
  { State.reset with fsm := f, q := q, turns := turns, depth := .unbounded }

/-- The same in EXEC of the instruction with these bytes, fetched at position 6, over this memory. -/
def execAt (op a b : Byte) (k : Nat) (mem : List Host.Cell) : State :=
  { stateAt .exec [] [] with op := op, a := a, b := b, k := k, istart := 6, cnt := 7 + k, mem := mem }

/-- A field of the next state, if the outcome is one. -/
def seen {α : Type} (f : State → α) : Host.Outcome State Fault Refusal → Option α
  | .next t => some (f t)
  | .fault _ => none
  | .refused _ => none

/-! ## The instructions -/

/-- V21: LOAD at the top address. -/
theorem test_load_top : seen (fun t => (t.mem, t.fsm)) (step (execAt 0x10 0xFF 0xFF 2 [])) = some ([(255, 0xFF)], .fetch) := by
  decide
/-- V22: the last write wins, in address order. -/
theorem test_load_over : seen (fun t => t.mem) (exec (.load 5 2) (execAt 0x10 5 2 2 [(4, 9), (5, 1), (6, 9)]))
    = some [(4, 9), (5, 2), (6, 9)] := by decide
/-- V31: 200 + 55 is the largest storable sum. -/
theorem test_add_largest : seen (fun t => (t.mem, t.fsm)) (step (execAt 0x11 0 1 2 [(0, 200), (1, 55)]))
    = some ([(0, 255), (1, 55)], .fetch) := by decide
/-- V32: 200 + 56 faults with the record of an ADD at position 6, and writes nothing. -/
theorem test_add_overflow :
    seen (fun t => (t.fsm, t.fkind, t.fop, t.fpos, t.cnt, t.mem)) (step (execAt 0x11 0 1 2 [(0, 200), (1, 56)]))
      = some (.fault, .arithmeticOverflow, 0x11, 6, 9, [(0, 200), (1, 56)]) := by rfl
/-- V34 and V35: doubling a cell up to 127 and from 128 on. -/
theorem test_add_same_cell : seen (fun t => t.mem) (exec (.add 0 0) (execAt 0x11 0 0 2 [(0, 127)])) = some [(0, 254)] := by
  decide
/-- V42: `ADD 1, 0` writes cell 1. -/
theorem test_add_writes_first : seen (fun t => t.mem) (exec (.add 1 0) (execAt 0x11 1 0 2 [(0, 3), (1, 4)]))
    = some [(0, 3), (1, 7)] := by decide
/-- V50: SAY announces 7 and waits with `say_data` = 7. -/
theorem test_say : seen (fun t => (t.ann, t.fsm, t.sayReq, t.sayData, t.mem)) (step (execAt 0x12 5 0 1 [(5, 7)]))
    = some ([7], .sayWait, true, 7, [(5, 7)]) := by rfl
/-- V60: RET goes on and leaves `CNT`. -/
theorem test_ret : seen (fun t => (t.fsm, t.cnt, t.mem, t.ann)) (step (execAt 0x13 0 0 0 [(5, 7)]))
    = some (.fetch, 7, [(5, 7)], []) := by decide

/-! ## Fetch, operands, environment -/

/-- P1 line 6, V7: a LOAD opcode at position 3. -/
theorem test_fetch_load : seen (fun t => (t.fsm, t.op, t.istart, t.k, t.cnt, t.q))
    (step { stateAt .fetch [0x10, 0x01] [] with cnt := 3, k := 2 }) = some (.opnd, 0x10, 3, 0, 4, [0x01]) := by rfl
/-- V6: an illegal byte faults, and the bytes after it stay. -/
theorem test_fetch_unknown : seen (fun t => (t.fsm, t.fkind, t.fop, t.fpos, t.cnt, t.q))
    (step (stateAt .fetch [0x80, 0x10, 0x00, 0x01] [])) = some (.fault, .unknownOpcode, 0x80, 0, 1, [0x10, 0x00, 0x01]) := by
  rfl
/-- P1 line 4: the second operand goes to `B` and completes the instruction. -/
theorem test_operand_second : seen (fun t => (t.fsm, t.a, t.b, t.k, t.cnt))
    (step { stateAt .opnd [0x17] [] with op := 0x10, a := 5, k := 1, cnt := 2 }) = some (.exec, 5, 0x17, 2, 3) := by rfl
/-- V25: a LOAD starved of its value. -/
theorem test_operand_starved : seen (fun t => (t.fsm, t.fkind, t.fop, t.fpos, t.cnt, t.mem))
    (step { stateAt .opnd [] [] with op := 0x10, a := 5, k := 1, cnt := 2 })
      = some (.fault, .starvedOperand, 0x10, 0, 2, []) := by rfl
/-- V70: a full queue of depth 2 holds the producer. -/
theorem test_producer_held : seen (fun t => (t.q, t.offers))
    (step { stateAt .idle [0x10, 0x00] [.producer] with depth := .bounded 1, offers := [0x05] })
      = some ([0x10, 0x00], [0x05]) := by decide
/-- V71: FAULT still accepts a byte. -/
theorem test_producer_in_fault : seen (fun t => (t.q, t.offers, t.fsm))
    (step { stateAt .fault [] [.producer] with fkind := .unknownOpcode, offers := [0x13] }) = some ([0x13], [], .fault) := by
  decide
/-- V72: reset in SAYWAIT; the sink's record stays. -/
theorem test_reset_in_sayWait : seen (fun t => (t.fsm, t.q, t.cnt, t.fkind, t.ann, t.mem, t.sayReq))
    (step { stateAt .sayWait [0x13] [.reset] with ann := [7], cnt := 5, mem := [(5, 7)], sayv := 7 })
      = some (.idle, [], 0, .noFault, [7], [], false) := by rfl
/-- After that reset the observation counts announces afresh (10 R33). -/
theorem test_ann_since_reset : seen (fun t => t.ann.drop t.annBase)
    (step { stateAt .sayWait [] [.reset] with ann := [7] }) = some [] := by decide

/-! ## Premises of the obligations -/

theorem test_premises_DecodedBytesReencode : decode [0x12#8, 0x40#8, 0x13#8] = .ok (.say 0x40, [0x13]) := by decide

theorem test_premises_OpcodeTableIsClosed :
    (0x0F : Byte) ≠ 0x10 ∧ (0x0F : Byte) ≠ 0x11 ∧ (0x0F : Byte) ≠ 0x12 ∧ (0x0F : Byte) ≠ 0x13 := by decide

theorem test_premises_OnlyLoadAndAddWriteMemory :
    ∃ t, step (execAt 0x10 5 2 2 [(5, 1)]) = .next t ∧ (execAt 0x10 5 2 2 [(5, 1)]).nextTurn ≠ .reset
      ∧ t.memRead 5 ≠ (execAt 0x10 5 2 2 [(5, 1)]).memRead 5 := ⟨_, rfl, by decide, by decide⟩

theorem test_premises_EqualMemoriesAreEqualLists :
    Memory.wf [(0, 1), (255, 2)]
      ∧ ∀ a, Memory.lookup [(0, 1), (255, 2)] a = Memory.lookup (Memory.insert 255 2 [(0, 1)]) a :=
  ⟨by decide, fun _ => rfl⟩

theorem test_premises_OutOfRangeAddressNeverRaised :
    ∃ t, step (execAt 0x11 0xFF 0xFF 2 [(255, 1)]) = .next t
      ∧ (execAt 0x11 0xFF 0xFF 2 [(255, 1)]).fkind ≠ .outOfRangeAddress := ⟨_, rfl, by decide⟩

theorem test_premises_FetchIgnoresMemory_fetch :
    ∃ t, (stateAt .fetch [0x12] []).nextTurn = .fsm ∧ (stateAt .fetch [0x12] []).fsm = .fetch
      ∧ step (stateAt .fetch [0x12] []) = .next t := ⟨_, by decide, by decide, rfl⟩

theorem test_premises_FetchIgnoresMemory_opnd :
    ∃ t, ({ stateAt .opnd [0x12] [] with op := 0x12 }).nextTurn = .fsm
      ∧ ({ stateAt .opnd [0x12] [] with op := 0x12 }).fsm = .opnd
      ∧ step { stateAt .opnd [0x12] [] with op := 0x12 } = .next t := ⟨_, by decide, by decide, rfl⟩

/-- 128 + 127 = 255, the boundary below. -/
theorem test_premises_AddStoresExactSumOrFaults_fits :
    ((execAt 0x11 0 1 2 [(0, 128), (1, 127)]).memRead 0).toNat
      + ((execAt 0x11 0 1 2 [(0, 128), (1, 127)]).memRead 1).toNat ≤ 255 := by decide

/-- 255 + 1 = 256, the boundary above. -/
theorem test_premises_AddStoresExactSumOrFaults_overflows :
    255 < ((execAt 0x11 0 1 2 [(0, 255), (1, 1)]).memRead 0).toNat
      + ((execAt 0x11 0 1 2 [(0, 255), (1, 1)]).memRead 1).toNat := by decide

theorem test_premises_InsertedRetOnlyCounts :
    (stateAt .fetch [0x13, 0x12] []).turns = [] ∧ (stateAt .fetch [0x13, 0x12] []).fsm = .fetch
      ∧ (stateAt .fetch [0x13, 0x12] []).q = 0x13 :: [0x12] := by decide

theorem test_premises_FetchOnEmptyQueueEndsRun :
    (stateAt .fetch [] [.fsm, .run]).nextTurn = .fsm ∧ (stateAt .fetch [] [.fsm, .run]).fsm = .fetch
      ∧ (stateAt .fetch [] [.fsm, .run]).q = [] := by decide

/-- A byte at the head of the queue in FETCH on the FSM's turn; the clauses' bytes 0x13, 0x10 and 0x14 are tried. -/
theorem test_premises_FetchPopsAndLooksUpOpcode :
    ∀ h ∈ [0x13#8, 0x10#8, 0x14#8], (stateAt .fetch [h, 1] []).nextTurn = .fsm ∧ (stateAt .fetch [h, 1] []).fsm = .fetch
      ∧ (stateAt .fetch [h, 1] []).q = h :: [1] := by decide

theorem test_premises_EmptyQueueStarvesOperand :
    (stateAt .opnd [] []).nextTurn = .fsm ∧ (stateAt .opnd [] []).fsm = .opnd ∧ (stateAt .opnd [] []).q = [] := by decide

/-- Both clauses: no operand yet, one operand collected. -/
theorem test_premises_OperandsCollectedInOrder :
    ∀ k ∈ [0, 1], ({ stateAt .opnd [0x05] [] with op := 0x10, k := k }).nextTurn = .fsm
      ∧ ({ stateAt .opnd [0x05] [] with op := 0x10, k := k }).q = 0x05 :: []
      ∧ nopnd ({ stateAt .opnd [0x05] [] with op := 0x10, k := k }).op = some 2
      ∧ ({ stateAt .opnd [0x05] [] with op := 0x10, k := k }).k = k := by decide

theorem test_premises_StepRunsLatchedInstruction :
    (execAt 0x12 5 0 1 []).nextTurn = .fsm ∧ (execAt 0x12 5 0 1 []).fsm = .exec
      ∧ decode [(execAt 0x12 5 0 1 []).op, (execAt 0x12 5 0 1 []).a, (execAt 0x12 5 0 1 []).b] = .ok (.say 5, [0]) := by
  decide

theorem test_premises_QueuedInstructionIsExecuted :
    (stateAt .fetch [0x11, 0, 1, 0x13] []).turns = [] ∧ (stateAt .fetch [0x11, 0, 1, 0x13] []).fsm = .fetch
      ∧ (stateAt .fetch [0x11, 0, 1, 0x13] []).q = encode (.add 0 1) ++ [0x13] := by decide

theorem test_premises_NoFsmStepInWaitStates :
    (stateAt .sayWait [0x13] []).nextTurn = .fsm ∧ (stateAt .sayWait [0x13] []).fsm = .sayWait := by decide

/-- The three clauses: a queued byte in IDLE, none in IDLE, not IDLE. -/
theorem test_premises_RunStartsOnlyFromIdle :
    (stateAt .idle [0x13] [.run]).nextTurn = .run ∧ (stateAt .idle [0x13] [.run]).q ≠ []
      ∧ (stateAt .idle [] [.run]).q = [] ∧ (stateAt .fault [] [.run]).fsm ≠ .idle := by decide

/-- Both clauses, at a depth of 2 with 1 and with 2 bytes queued. -/
theorem test_premises_ProducerAppendsOrIsHeld :
    ({ stateAt .idle [1] [.producer] with depth := .bounded 1, offers := [5] }).nextTurn = .producer
      ∧ ({ stateAt .idle [1] [.producer] with depth := .bounded 1, offers := [5] }).q.length < 1 + 1
      ∧ ({ stateAt .idle [1, 2] [.producer] with depth := .bounded 1, offers := [5] }).q.length = 1 + 1 := by decide

theorem test_premises_CompletionEndsOnlySayWait :
    (stateAt .sayWait [] [.sink]).nextTurn = .sink ∧ (stateAt .sayWait [] [.sink]).fsm = .sayWait
      ∧ (stateAt .idle [] [.sink]).nextTurn = .sink ∧ (stateAt .idle [] [.sink]).fsm ≠ .sayWait := by decide

theorem test_premises_ResetStepRestoresReset : (stateAt .fault [1] [.reset]).nextTurn = .reset := by decide

/-- V75 with the operand byte 05 still to come. -/
theorem test_premises_ProducerRaceHasBothOutcomes :
    ({ stateAt .opnd [] [] with op := 0x10, k := 1, offers := [5] }).fsm = .opnd
      ∧ ({ stateAt .opnd [] [] with op := 0x10, k := 1, offers := [5] }).op = 0x10
      ∧ ({ stateAt .opnd [] [] with op := 0x10, k := 1, offers := [5] }).k = 1
      ∧ ({ stateAt .opnd [] [] with op := 0x10, k := 1, offers := [5] }).q = []
      ∧ ({ stateAt .opnd [] [] with op := 0x10, k := 1, offers := [5] }).offers = [5] := by decide

theorem test_premises_FsmFollowsTransitionTable :
    ∃ t, step (stateAt .sayWait [] [.sink]) = .next t ∧ t.fsm ≠ (stateAt .sayWait [] [.sink]).fsm := ⟨_, rfl, by decide⟩

theorem test_premises_OnlyResetLeavesFault :
    (stateAt .fault [1] [.run]).fsm = .fault ∧ (stateAt .fault [1] [.run]).nextTurn ≠ .reset := by decide

theorem test_premises_OnlyResetLeavesFault_enqueue :
    ({ stateAt .fault [] [.producer] with offers := [5] }).nextTurn = .producer
      ∧ ({ stateAt .fault [] [.producer] with offers := [5] }).enqReady = true := by decide

/-- Nothing offered, and a full queue. -/
theorem test_premises_OnlyResetLeavesFault_held :
    (stateAt .fault [1] [.producer]).offers = []
      ∧ ({ stateAt .fault [1] [.producer] with depth := .bounded 0, offers := [5] }).enqReady = false
      ∧ ({ stateAt .fault [1] [.producer] with depth := .bounded 0, offers := [5] }).nextTurn ≠ .reset := by decide

/-- V53: a run command and an enqueue while the sink is silent. -/
theorem test_premises_SilentSinkHangsInSayWait :
    (stateAt .sayWait [] [.producer, .run]).fsm = .sayWait
      ∧ ∀ turn ∈ (stateAt .sayWait [] [.producer, .run]).turns, turn ≠ .sink ∧ turn ≠ .reset := by decide

theorem test_premises_SayAnnouncesCell_completion :
    ∃ t, exec (.say 5) { stateAt .exec [] [.sink] with mem := [(5, 7)] } = .next t ∧ t.nextTurn = .sink :=
  ⟨_, rfl, by decide⟩

theorem test_premises_FaultsArePrecise :
    ∃ t, step (stateAt .fetch [0xFF, 0x13] []) = .next t ∧ (stateAt .fetch [0xFF, 0x13] []).fsm ≠ .fault
      ∧ t.fsm = .fault := ⟨_, rfl, by decide, by decide⟩

/-- From OPND and from EXEC too. -/
theorem test_premises_FaultsArePrecise_later :
    (∃ t, step (stateAt .opnd [] []) = .next t ∧ (stateAt .opnd [] []).fsm ≠ .fault ∧ t.fsm = .fault)
      ∧ ∃ t, step (execAt 0x11 0 1 2 [(0, 255), (1, 1)]) = .next t
        ∧ (execAt 0x11 0 1 2 [(0, 255), (1, 1)]).fsm ≠ .fault ∧ t.fsm = .fault :=
  ⟨⟨_, rfl, by decide, by decide⟩, _, rfl, by decide, by decide⟩

theorem test_premises_FaultRecordWrittenOnlyAtEntry :
    ∃ t, step (stateAt .fetch [0xFF] []) = .next t ∧ (stateAt .fetch [0xFF] []).nextTurn ≠ .reset
      ∧ t.fkind ≠ (stateAt .fetch [0xFF] []).fkind := ⟨_, rfl, by decide, by decide⟩

theorem test_premises_AnnouncesOnlyBySay :
    ∃ t, step (execAt 0x12 5 0 1 [(5, 7)]) = .next t ∧ t.ann ≠ (execAt 0x12 5 0 1 [(5, 7)]).ann := ⟨_, rfl, by decide⟩

theorem test_premises_QueueIsFifoAndCounted :
    ∃ t, step (stateAt .fetch [0x13] []) = .next t ∧ (stateAt .fetch [0x13] []).nextTurn ≠ .reset := ⟨_, rfl, by decide⟩

theorem test_premises_InstructionsNeverOverlap_latch :
    ∃ t, step (stateAt .fetch [0x13] []) = .next t ∧ (stateAt .fetch [0x13] []).nextTurn ≠ .reset
      ∧ t.op ≠ (stateAt .fetch [0x13] []).op := ⟨_, rfl, by decide, by decide⟩

theorem test_premises_InstructionsNeverOverlap_enter :
    ∃ t, step (stateAt .sayWait [] [.sink]) = .next t ∧ (stateAt .sayWait [] [.sink]).nextTurn ≠ .reset
      ∧ (stateAt .sayWait [] [.sink]).fsm ≠ .fetch ∧ t.fsm = .fetch := ⟨_, rfl, by decide, by decide, by decide⟩

/-- EXEC of `ADD 0, 1` at position 6 meets the invariant. -/
theorem test_inv_exec : (execAt 0x11 0 1 2 [(0, 200), (1, 56)]).Inv where
  memWf := by decide
  queueFits := rfl
  annBaseLe := by decide
  collecting h := by cases h
  ready _ := by decide
  waiting h := by cases h
  faultedIff := by decide
  record := trivial

/-- OPND of a LOAD with its address collected; `junk` stands where no observation looks. -/
def halfLoaded (junk : Byte) : State :=
  { stateAt .opnd [0x17] [] with
    op := 0x10, a := 5, k := 1, cnt := 2, b := junk, sayv := junk, fop := junk, fpos := junk.toNat }

/-- It meets the invariant. -/
theorem test_inv_opnd (junk : Byte) : (halfLoaded junk).Inv where
  memWf := by change Memory.wf []; decide
  queueFits := rfl
  annBaseLe := Nat.le_refl 0
  collecting _ := ⟨2, rfl, Nat.lt_add_one 1, rfl⟩
  ready h := by cases h
  waiting h := by cases h
  faultedIff := by change Fsm.opnd = .fault ↔ FaultKind.noFault ≠ .noFault; decide
  record := trivial

/-- FETCH with bytes queued and this schedule meets the invariant. -/
theorem test_inv_fetch (turns : List Turn) : (stateAt .fetch [0x12, 0x05] turns).Inv where
  memWf := by change Memory.wf []; decide
  queueFits := rfl
  annBaseLe := Nat.le_refl 0
  collecting h := by cases h
  ready h := by cases h
  waiting h := by cases h
  faultedIff := by change Fsm.fetch = .fault ↔ FaultKind.noFault ≠ .noFault; decide
  record := trivial

theorem test_premises_FsmStepAlwaysEnabled :
    (execAt 0x11 0 1 2 [(0, 200), (1, 56)]).Inv ∧ (execAt 0x11 0 1 2 [(0, 200), (1, 56)]).nextTurn = .fsm
      ∧ (execAt 0x11 0 1 2 [(0, 200), (1, 56)]).fsm = .exec := ⟨test_inv_exec, by decide, by decide⟩

theorem test_premises_StepKeepsInv :
    ∃ t, (execAt 0x11 0 1 2 [(0, 200), (1, 56)]).Inv ∧ step (execAt 0x11 0 1 2 [(0, 200), (1, 56)]) = .next t :=
  ⟨_, test_inv_exec, rfl⟩

theorem test_premises_InvStatesNeverStop : (halfLoaded 0).Inv := test_inv_opnd 0

/-- Two states that differ in `B`, `SAYV`, `FOP` and `FPOS` with one operand of a LOAD collected. -/
theorem test_premises_HiddenStateIsUnobservable :
    (halfLoaded 0).Inv ∧ (halfLoaded 9).Inv ∧ halfLoaded 0 ≠ halfLoaded 9 ∧ HiddenAgree (halfLoaded 0) (halfLoaded 9) :=
  ⟨test_inv_opnd 0, test_inv_opnd 9, fun h => absurd (congrArg State.b h) (by decide),
    rfl, fun _ => ⟨rfl, rfl, rfl, fun _ => rfl, by decide⟩, by decide, by decide⟩

/-- One RET and the end of the queue, with an idle sink turn in between. -/
theorem test_premises_InstructionLevelViewAgrees :
    (stateAt .fetch [0x13] [.fsm, .sink, .fsm, .fsm]).fsm = .fetch
      ∧ undisturbed (stateAt .fetch [0x13] [.fsm, .sink, .fsm, .fsm]).turns
      ∧ ∃ u, Host.Core.run core (stateAt .fetch [0x13] [.fsm, .sink, .fsm, .fsm]).turns.length
          (stateAt .fetch [0x13] [.fsm, .sink, .fsm, .fsm]) = .next u ∧ State.ended u := by
  refine ⟨rfl, ?_, _, rfl, .inl rfl⟩
  unfold undisturbed
  decide

theorem test_premises_UndisturbedRunEnds :
    (stateAt .fetch [0x12, 0x05] (attentiveSink 7)).Inv
      ∧ (stateAt .fetch [0x12, 0x05] (attentiveSink 7)).turns = attentiveSink (2 * 2 + 3) :=
  ⟨test_inv_fetch _, rfl⟩

end Sys2Proof.Tests
end

section
/-! The output signals, each by the state that drives it (10_state.md R31), and what a state with no cell written
reads as. -/

namespace Sys2Proof.Machine

/-- `busy` is the logical state Executing, spelled out over the values of `FSM` (10_state.md R27, R31). -/
theorem State.busy_iff (s : State) :
    s.busy = true ↔ s.fsm = .fetch ∨ s.fsm = .opnd ∨ s.fsm = .exec ∨ s.fsm = .sayWait := by
  rw [State.busy, decide_eq_true_iff]
  cases s.fsm <;> decide

theorem State.faulted_iff (s : State) : s.faulted = true ↔ s.fsm = .fault := decide_eq_true_iff

theorem State.sayReq_iff (s : State) : s.sayReq = true ↔ s.fsm = .sayWait := decide_eq_true_iff

/-- Room is a length below the depth, where the depth is bounded. -/
theorem depthHasRoom_iff (d : QueueDepth) (len : Nat) :
    depthHasRoom d len = true ↔ ∀ n, d = .bounded n → len < n + 1 := by
  cases d with
  | unbounded => simp [depthHasRoom]
  | bounded c => simp [depthHasRoom]

theorem State.enqReady_iff (s : State) : s.enqReady = true ↔ ∀ n, s.depth = .bounded n → s.q.length < n + 1 :=
  depthHasRoom_iff s.depth s.q.length

/-- An empty queue has room at every depth (00_scope.md R8). -/
theorem State.enqReady_of_q_nil {s : State} (h : s.q = []) : s.enqReady = true := by
  rw [State.enqReady, h]
  exact depthHasRoom_zero s.depth

/-- IDLE shows none of the three signals of a run. -/
theorem State.signals_of_idle {s : State} (h : s.fsm = .idle) :
    s.sayReq = false ∧ s.busy = false ∧ s.faulted = false := by
  simp [State.sayReq, State.busy, State.faulted, logicalState, h]

/-- With no cell written since reset, every cell reads as the launch's draw (10_state.md R34, 70 R201). -/
theorem State.memRead_of_mem_nil {s : State} (h : s.mem = []) (a : Byte) : s.memRead a = Config.mem0 s.launch a := by
  rw [State.memRead, h]
  rfl

end Sys2Proof.Machine
end

section
/-! Reset and the output signals: the statements of 10_state.md. -/

namespace Sys2Proof.Machine

/-- Settles O26: the reset turn's step is `resetStep`, whose fields the laws of State give; memory lists nothing and the
queue is empty, so the cells are the new launch's draw and the queue has room. -/
theorem resetStepRestoresReset : Obligations.ResetStepRestoresReset := by
  intro s hturn
  have hstep : step s = .next s.dropTurn.resetStep := step_of_turn hturn
  obtain ⟨hsay, hbusy, hfaulted⟩ := State.signals_of_idle s.dropTurn.resetStep_fsm
  exact ⟨s.dropTurn.resetStep, hstep, State.resetStep_fsm _, State.resetStep_q _, State.resetStep_cnt _,
    State.resetStep_fkind _, State.memRead_of_mem_nil (State.resetStep_mem _), State.resetStep_ann _, hsay, hbusy,
    hfaulted, State.enqReady_of_q_nil (State.resetStep_q _)⟩

/-- Settles O43: the codes by the values of `FSM`, each signal by its own equivalence. -/
theorem signalsShowFsm : Obligations.SignalsShowFsm := by
  have hcodes : ∀ f : Fsm, (fsmCode f).toNat < 6 := by
    intro f
    cases f <;> decide
  exact ⟨rfl, rfl, rfl, rfl, rfl, rfl, hcodes, fun s =>
    ⟨rfl, s.busy_iff, s.faulted_iff, s.sayReq_iff, s.enqReady_iff⟩⟩

end Sys2Proof.Machine
end

section
/-! What the agents' steps leave of the cells and of the fault kind, and the two statements of 20_memory.md they give. -/

namespace Sys2Proof.Machine

/-! ### The environment reaches neither memory nor the fault record -/

@[simp] theorem producerStep_memRead (s : State) (b : Byte) : (producerStep s).memRead b = s.memRead b := by
  obtain e | ⟨v, rest, -, -, e⟩ := producerStep_cases s
  · rw [e]
  · rw [e]
    rfl

@[simp] theorem producerStep_fkind (s : State) : (producerStep s).fkind = s.fkind := by
  obtain e | ⟨v, rest, -, -, e⟩ := producerStep_cases s
  · rw [e]
  · rw [e, State.push_fkind]

@[simp] theorem runStep_memRead (s : State) (b : Byte) : (runStep s).memRead b = s.memRead b := by
  obtain ⟨-, -, e⟩ | ⟨-, e⟩ := runStep_cases s
  · rw [e, State.goto_memRead]
  · rw [e]

@[simp] theorem runStep_fkind (s : State) : (runStep s).fkind = s.fkind := by
  obtain ⟨-, -, e⟩ | ⟨-, e⟩ := runStep_cases s
  · rw [e, State.goto_fkind]
  · rw [e]

@[simp] theorem sinkStep_memRead (s : State) (b : Byte) : (sinkStep s).memRead b = s.memRead b := by
  obtain ⟨-, e⟩ | ⟨-, e⟩ := sinkStep_cases s
  · rw [e, State.goto_memRead]
  · rw [e]

@[simp] theorem sinkStep_fkind (s : State) : (sinkStep s).fkind = s.fkind := by
  obtain ⟨-, e⟩ | ⟨-, e⟩ := sinkStep_cases s
  · rw [e, State.goto_fkind]
  · rw [e]

/-! ### Memory: only the EXEC step of a LOAD or an ADD writes (20_memory.md R52) -/

/-- The one cell a write can change is the one it names. -/
theorem State.eq_of_memRead_memWrite_ne {a v b : Byte} {s : State}
    (h : (s.memWrite a v).memRead b ≠ s.memRead b) : b = a := by
  rw [State.memRead_memWrite] at h
  by_contra hne
  exact h (if_neg hne)

@[simp] theorem fetchStep_memRead (s : State) (b : Byte) : (fetchStep s).memRead b = s.memRead b := by
  obtain ⟨-, e⟩ | ⟨h, rest, -, ⟨-, e⟩ | ⟨-, e⟩ | ⟨n, -, e⟩⟩ := fetchStep_cases s <;> simp [e]

theorem operandStep_memRead {s t : State} (h : operandStep s = .next t) (b : Byte) : t.memRead b = s.memRead b := by
  obtain ⟨-, rfl⟩ | ⟨c, rest, n, -, -, rfl⟩ := operandStep_next h <;> simp

/-- An EXEC step that changes what a cell reads as is of a LOAD or an ADD, and the cell is the one `A` names. -/
theorem execStep_writes {s t : State} {b : Byte} (h : execStep s = .next t) (hb : t.memRead b ≠ s.memRead b) :
    (s.op = 0x10 ∨ s.op = 0x11) ∧ b = s.a := by
  obtain ⟨ho, rfl⟩ | ⟨-, -, rfl⟩ | ⟨ho, -, rfl⟩ | ⟨-, rfl⟩ | ⟨-, rfl⟩ := execStep_next h
  · exact ⟨.inl ho, State.eq_of_memRead_memWrite_ne hb⟩
  · exact absurd (State.raise_memRead _ s b) hb
  · exact ⟨.inr ho, State.eq_of_memRead_memWrite_ne hb⟩
  · exact absurd (State.announce_memRead (s.memRead s.a) s b) hb
  · exact absurd (State.goto_memRead _ s b) hb

/-- Settles O6: a write by the law of `memWrite`; a step by what its agent does, of which only the EXEC step and a reset
can change a cell. -/
theorem onlyLoadAndAddWriteMemory : Obligations.OnlyLoadAndAddWriteMemory := by
  refine ⟨fun s a v b => State.memRead_memWrite a v s b, fun s t b hstep hreset hb => ?_⟩
  obtain ⟨hturn, ⟨-, rfl⟩ | ⟨-, ho⟩ | ⟨hexec, he⟩ | ⟨-, rfl⟩⟩ | ⟨-, rfl⟩ | ⟨-, rfl⟩ | ⟨-, rfl⟩ | ⟨hr, -⟩ :=
    step_next hstep
  · exact absurd (fetchStep_memRead _ b) hb
  · exact absurd (operandStep_memRead ho b) hb
  · exact ⟨hturn, hexec, execStep_writes (s := s.dropTurn) he hb⟩
  · exact absurd (State.dropTurn_memRead s b) hb
  · exact absurd (producerStep_memRead _ b) hb
  · exact absurd (runStep_memRead _ b) hb
  · exact absurd (sinkStep_memRead _ b) hb
  · exact absurd hr hreset

/-! ### The fault kind: each FSM state raises one kind, none of them OutOfRangeAddress (20_memory.md R53) -/

theorem fetchStep_fkind (s : State) :
    (fetchStep s).fkind = s.fkind ∨ (fetchStep s).fkind = .unknownOpcode := by
  obtain ⟨-, e⟩ | ⟨h, rest, -, ⟨-, e⟩ | ⟨-, e⟩ | ⟨n, -, e⟩⟩ := fetchStep_cases s <;> simp [e]

theorem operandStep_fkind {s t : State} (h : operandStep s = .next t) :
    t.fkind = s.fkind ∨ t.fkind = .starvedOperand := by
  obtain ⟨-, rfl⟩ | ⟨c, rest, n, -, -, rfl⟩ := operandStep_next h <;> simp

theorem execStep_fkind {s t : State} (h : execStep s = .next t) :
    t.fkind = s.fkind ∨ t.fkind = .arithmeticOverflow := by
  obtain ⟨-, rfl⟩ | ⟨-, -, rfl⟩ | ⟨-, -, rfl⟩ | ⟨-, rfl⟩ | ⟨-, rfl⟩ := execStep_next h <;> simp

/-- What a step can make of `FKIND`: the value it finds, the kind its FSM state raises, or, by a reset, no fault. -/
theorem step_fkind {s t : State} (h : step s = .next t) :
    t.fkind = s.fkind ∨ t.fkind = .unknownOpcode ∨ t.fkind = .starvedOperand ∨ t.fkind = .arithmeticOverflow
      ∨ t.fkind = .noFault := by
  obtain ⟨-, ⟨-, rfl⟩ | ⟨-, ho⟩ | ⟨-, he⟩ | ⟨-, rfl⟩⟩ | ⟨-, rfl⟩ | ⟨-, rfl⟩ | ⟨-, rfl⟩ | ⟨-, rfl⟩ := step_next h
  · exact (fetchStep_fkind _).imp id .inl
  · exact (operandStep_fkind ho).imp id (.inr ∘ .inl)
  · exact (execStep_fkind he).imp id (.inr ∘ .inr ∘ .inl)
  · exact .inl (State.dropTurn_fkind s)
  · exact .inl (producerStep_fkind _)
  · exact .inl (runStep_fkind _)
  · exact .inl (sinkStep_fkind _)
  · exact .inr (.inr (.inr (.inr (State.resetStep_fkind _))))

/-- Settles O8: the check passes for every byte, so the kinds a step can write do not include OutOfRangeAddress. -/
theorem outOfRangeAddressNeverRaised : Obligations.OutOfRangeAddressNeverRaised := by
  refine ⟨addrInRange_memSize, fun s t hstep hs => ?_⟩
  obtain e | e | e | e | e := step_fkind hstep <;> rw [e]
  · exact hs
  all_goals decide

end Sys2Proof.Machine
end

section
/-! The bytes outside the opcode table, and the table's statement of 30_encoding.md. -/

namespace Sys2Proof

/-- The table has no entry for a byte exactly when the byte is none of its four opcodes (30 R74). -/
theorem decodeOpcode_eq_none_iff (b : Byte) :
    decodeOpcode b = none ↔ b ≠ 0x10 ∧ b ≠ 0x11 ∧ b ≠ 0x12 ∧ b ≠ 0x13 := by
  rw [← nopnd_eq_none_iff, nopnd, Option.map_eq_none_iff]

/-- The first byte alone decides that a stream is rejected as an unknown opcode (30 R76, 40 R106). -/
theorem decode_cons_of_decodeOpcode_eq_none {b : Byte} (h : decodeOpcode b = none) (rest : List Byte) :
    decode (b :: rest) = .error (.unknownOpcode b) := by
  rw [decode, h]

/-- Settles O3: the four entries by evaluating the table; a byte outside it has no entry, hence no operand count and no
instruction. -/
theorem opcodeTableIsClosed : Obligations.OpcodeTableIsClosed := by
  refine ⟨⟨rfl, rfl⟩, ⟨rfl, rfl⟩, ⟨rfl, rfl⟩, ⟨rfl, rfl⟩, fun b hload hadd hsay hret => ?_⟩
  have houtside : b ≠ 0x10 ∧ b ≠ 0x11 ∧ b ≠ 0x12 ∧ b ≠ 0x13 := ⟨hload, hadd, hsay, hret⟩
  have hnone : decodeOpcode b = none := (decodeOpcode_eq_none_iff b).mpr houtside
  exact ⟨hnone, (nopnd_eq_none_iff b).mpr houtside, decode_cons_of_decodeOpcode_eq_none hnone⟩

end Sys2Proof
end

section
/-! The steps of 40_fetch_decode_dispatch.md as equations: what each agent's turn answers in each case of its rule, and
the statements that say those rules. -/

namespace Sys2Proof.Machine

/-! ### The FSM's turn in FETCH (40 R104, R105) -/

/-- On the FSM's turn in FETCH, a step is the fetch step. -/
theorem step_of_fetch {s : State} (hturn : s.nextTurn = .fsm) (hf : s.fsm = .fetch) :
    step s = .next (fetchStep s.dropTurn) := by
  rw [step_of_turn hturn]
  simp [agentStep, fsmStep, hf]

theorem fetchStep_of_q_nil {s : State} (hq : s.q = []) : fetchStep s = s.goto .idle := by
  simp [fetchStep, State.pop, hq]

theorem fetchStep_of_unknown {s : State} {h : Byte} {rest : List Byte} (hq : s.q = h :: rest)
    (hn : nopnd h = none) :
    fetchStep s = ((s.consume rest).latchOpcode s.cnt h).raise .unknownOpcode := by
  simp [fetchStep, State.pop, hq, hn]

theorem fetchStep_of_no_operand {s : State} {h : Byte} {rest : List Byte} (hq : s.q = h :: rest)
    (hn : nopnd h = some 0) :
    fetchStep s = ((s.consume rest).latchOpcode s.cnt h).goto .exec := by
  simp [fetchStep, State.pop, hq, hn]

theorem fetchStep_of_operands {s : State} {h : Byte} {rest : List Byte} {n : Nat} (hq : s.q = h :: rest)
    (hn : nopnd h = some (n + 1)) :
    fetchStep s = ((s.consume rest).latchOpcode s.cnt h).goto .opnd := by
  simp [fetchStep, State.pop, hq, hn]

/-- LOAD, ADD and SAY take operands (30_encoding.md R74, R75). -/
theorem nopnd_eq_succ {h : Byte} (hh : h = 0x10 ∨ h = 0x11 ∨ h = 0x12) : ∃ n, nopnd h = some (n + 1) := by
  obtain rfl | rfl | rfl := hh
  · exact ⟨1, rfl⟩
  · exact ⟨1, rfl⟩
  · exact ⟨0, rfl⟩

/-- Settles O16: the fetch step on an empty queue. -/
theorem fetchOnEmptyQueueEndsRun : Obligations.FetchOnEmptyQueueEndsRun := by
  intro s hturn hf hq
  rw [step_of_fetch hturn hf, fetchStep_of_q_nil (s := s.dropTurn) hq]
  rfl

/-- Settles O17: the operand count of the head byte, none, zero or positive, picks the case of the fetch step. -/
theorem fetchPopsAndLooksUpOpcode : Obligations.FetchPopsAndLooksUpOpcode := by
  intro s h rest hturn hf hq
  have hq' : s.dropTurn.q = h :: rest := hq
  rw [step_of_fetch hturn hf]
  refine ⟨fun hret => ?_, fun hops => ?_, fun h0 h1 h2 h3 => ?_⟩
  · have hn : nopnd h = some 0 := by
      rw [hret]
      rfl
    rw [fetchStep_of_no_operand hq' hn]
    rfl
  · obtain ⟨n, hn⟩ := nopnd_eq_succ hops
    rw [fetchStep_of_operands hq' hn]
    rfl
  · have hn : nopnd h = none := (nopnd_eq_none_iff h).mpr ⟨h0, h1, h2, h3⟩
    rw [fetchStep_of_unknown hq' hn]
    rfl

/-! ### The FSM's turn in OPND (40 R107, R108) -/

/-- On the FSM's turn in OPND, a step is the operand step. -/
theorem step_of_opnd {s : State} (hturn : s.nextTurn = .fsm) (hf : s.fsm = .opnd) :
    step s = operandStep s.dropTurn := by
  rw [step_of_turn hturn]
  simp [agentStep, fsmStep, hf]

theorem operandStep_of_q_nil {s : State} (hq : s.q = []) : operandStep s = .next (s.raise .starvedOperand) := by
  simp [operandStep, State.pop, hq]

theorem operandStep_of_q_cons {s : State} {c : Byte} {rest : List Byte} {n : Nat} (hq : s.q = c :: rest)
    (hn : nopnd s.op = some n) :
    operandStep s = .next (((s.consume rest).latchOperand c).goto (afterOperand (s.k + 1) n)) := by
  simp [operandStep, State.pop, hq, hn]

/-- The first operand byte goes into `A`. -/
theorem State.latchOperand_of_first {s : State} (hk : s.k = 0) (c : Byte) :
    s.latchOperand c = { s with a := c, k := 1 } := by
  simp [State.latchOperand, hk]

/-- A later operand byte goes into `B`. -/
theorem State.latchOperand_of_later {s : State} (hk : s.k ≠ 0) (c : Byte) :
    s.latchOperand c = { s with b := c, k := s.k + 1 } := by
  simp [State.latchOperand, hk]

/-- Settles O18: the operand step on an empty queue. -/
theorem emptyQueueStarvesOperand : Obligations.EmptyQueueStarvesOperand := by
  intro s hturn hf hq
  rw [step_of_opnd hturn hf, operandStep_of_q_nil (s := s.dropTurn) hq]
  rfl

/-- Settles O19: the operand step on a queued byte, with the latch that `K` picks. -/
theorem operandsCollectedInOrder : Obligations.OperandsCollectedInOrder := by
  intro s c rest n hturn hf hq hn
  have hstep : step s
      = .next (((s.dropTurn.consume rest).latchOperand c).goto (afterOperand (s.k + 1) n)) := by
    rw [step_of_opnd hturn hf]
    exact operandStep_of_q_cons (s := s.dropTurn) hq hn
  rw [hstep]
  refine ⟨fun hk => ?_, fun hk => ?_⟩
  · have hfsm : afterOperand (s.k + 1) n = if n = 1 then .exec else .opnd := by
      simp only [afterOperand, hk, Nat.zero_add, eq_comm]
    rw [State.latchOperand_of_first (s := s.dropTurn.consume rest) hk, hfsm]
    rfl
  · rw [State.latchOperand_of_later (s := s.dropTurn.consume rest) hk]
    rfl

/-! ### The environment's turns (40 R102, R110 to R112, R114) -/

theorem producerStep_of_room {s : State} {v : Byte} {rest : List Byte} (ho : s.offers = v :: rest)
    (hroom : depthHasRoom s.depth s.q.length = true) : producerStep s = { s.push v with offers := rest } := by
  simp [producerStep, ho, hroom]

theorem producerStep_of_full {s : State} (hfull : depthHasRoom s.depth s.q.length = false) : producerStep s = s := by
  obtain e | ⟨v, rest, -, hroom, -⟩ := producerStep_cases s
  · exact e
  · rw [hfull] at hroom
    cases hroom

/-- A bounded queue with as many bytes as its depth has no room. -/
theorem depthHasRoom_of_full {d : QueueDepth} {n len : Nat} (hd : d = .bounded n) (hlen : len = n + 1) :
    depthHasRoom d len = false := by
  simp [depthHasRoom, hd, hlen]

/-- Settles O23: the run step's two cases. -/
theorem runStartsOnlyFromIdle : Obligations.RunStartsOnlyFromIdle := by
  intro s hturn
  have hstep : step s = .next (runStep s.dropTurn) := step_of_turn hturn
  rw [hstep]
  obtain ⟨hidle, hq, e⟩ | ⟨hno, e⟩ := runStep_cases s.dropTurn <;> rw [e]
  · exact ⟨fun _ _ => rfl, fun _ hnil => absurd hnil hq, fun hne => absurd hidle hne⟩
  · exact ⟨fun hidle hq => absurd hno (not_or.mpr ⟨not_not.mpr hidle, hq⟩), fun _ _ => rfl, fun _ => rfl⟩

/-- Settles O24: the producer's step by whether the queue has room. -/
theorem producerAppendsOrIsHeld : Obligations.ProducerAppendsOrIsHeld := by
  intro s v more hturn ho
  have hstep : step s = .next (producerStep s.dropTurn) := step_of_turn hturn
  rw [hstep]
  refine ⟨fun hroom => ?_, fun n hd hlen => ?_⟩
  · rw [producerStep_of_room (s := s.dropTurn) ho ((depthHasRoom_iff s.depth s.q.length).mpr hroom)]
    rfl
  · rw [producerStep_of_full (s := s.dropTurn) (depthHasRoom_of_full hd hlen)]
    rfl

/-- Settles O25: the sink step's two cases. -/
theorem completionEndsOnlySayWait : Obligations.CompletionEndsOnlySayWait := by
  intro s hturn
  have hstep : step s = .next (sinkStep s.dropTurn) := step_of_turn hturn
  rw [hstep]
  obtain ⟨hwait, e⟩ | ⟨hno, e⟩ := sinkStep_cases s.dropTurn <;> rw [e]
  · exact ⟨fun _ => rfl, fun hne => absurd hwait hne⟩
  · exact ⟨fun hwait => absurd hwait hno, fun _ => rfl⟩

end Sys2Proof.Machine
end

section
/-! The queue, the opcode latches and the entries into FETCH over any step: each agent's step by what it leaves
unchanged, then the statements of 40 R103 and R118. -/

namespace Sys2Proof.Machine

/-! ### Frames: all a step leaves unchanged, as one equation -/

/-- The producer reaches nothing but the queue and its own bytes. -/
theorem producerStep_frame (s : State) : { producerStep s with q := s.q, offers := s.offers } = s := by
  obtain e | ⟨v, rest, -, -, e⟩ := producerStep_cases s <;> rw [e]
  rfl

/-- A run command reaches nothing but `FSM`. -/
theorem runStep_frame (s : State) : { runStep s with fsm := s.fsm } = s := by
  obtain ⟨-, -, e⟩ | ⟨-, e⟩ := runStep_cases s <;> rw [e]
  rfl

/-- A completion reaches nothing but `FSM`. -/
theorem sinkStep_frame (s : State) : { sinkStep s with fsm := s.fsm } = s := by
  obtain ⟨-, e⟩ | ⟨-, e⟩ := sinkStep_cases s <;> rw [e]
  rfl

/-- An EXEC step reaches memory, the announce, the fault record and `FSM`: neither the queue nor the latches of the
instruction. -/
theorem execStep_frame {s t : State} (h : execStep s = .next t) :
    { t with mem := s.mem, ann := s.ann, sayv := s.sayv, fkind := s.fkind, fop := s.fop, fpos := s.fpos,
             fsm := s.fsm } = s := by
  obtain ⟨-, rfl⟩ | ⟨-, -, rfl⟩ | ⟨-, -, rfl⟩ | ⟨-, rfl⟩ | ⟨-, rfl⟩ := execStep_next h <;> rfl

/-! ### The queue (40 R103) -/

theorem fetchStep_queue (s : State) :
    ((fetchStep s).q = s.q ∧ (fetchStep s).cnt = s.cnt)
    ∨ ((fetchStep s).cnt = s.cnt + 1 ∧ ∃ h, s.q = h :: (fetchStep s).q) := by
  obtain ⟨-, e⟩ | ⟨h, rest, hq, ⟨-, e⟩ | ⟨-, e⟩ | ⟨n, -, e⟩⟩ := fetchStep_cases s <;> rw [e]
  · exact .inl ⟨rfl, rfl⟩
  all_goals exact .inr ⟨rfl, h, hq⟩

theorem operandStep_queue {s t : State} (h : operandStep s = .next t) :
    (t.q = s.q ∧ t.cnt = s.cnt) ∨ (t.cnt = s.cnt + 1 ∧ ∃ c, s.q = c :: t.q) := by
  obtain ⟨-, rfl⟩ | ⟨c, rest, n, hq, -, rfl⟩ := operandStep_next h
  · exact .inl ⟨rfl, rfl⟩
  · exact .inr ⟨rfl, c, hq⟩

/-- The producer leaves the queue alone or moves its oldest byte to the tail. -/
theorem producerStep_queue (s : State) :
    (producerStep s).q = s.q ∨ ∃ v, (producerStep s).q = s.q ++ [v] ∧ s.offers = v :: (producerStep s).offers := by
  obtain e | ⟨v, rest, ho, -, e⟩ := producerStep_cases s <;> rw [e]
  · exact .inl rfl
  · exact .inr ⟨v, rfl, ho⟩

/-- Settles O35: by the agent whose turn it is; only the fetch and the operand step pop, only the producer appends. -/
theorem queueIsFifoAndCounted : Obligations.QueueIsFifoAndCounted := by
  intro s t hstep hreset
  obtain ⟨hturn, ⟨hf, rfl⟩ | ⟨hf, ho⟩ | ⟨-, he⟩ | ⟨-, rfl⟩⟩ | ⟨hturn, rfl⟩ | ⟨-, rfl⟩ | ⟨-, rfl⟩ | ⟨hr, -⟩ :=
    step_next hstep
  · exact (fetchStep_queue s.dropTurn).imp id fun ⟨hcnt, hpop⟩ => .inr ⟨hturn, .inl hf, hcnt, hpop⟩
  · exact (operandStep_queue ho).imp id fun ⟨hcnt, hpop⟩ => .inr ⟨hturn, .inr hf, hcnt, hpop⟩
  · have hframe := execStep_frame he
    exact .inl ⟨(congrArg State.q hframe :), (congrArg State.cnt hframe :)⟩
  · exact .inl ⟨rfl, rfl⟩
  · have hcnt : (producerStep s.dropTurn).cnt = s.cnt :=
      (congrArg State.cnt (producerStep_frame s.dropTurn) :)
    exact (producerStep_queue s.dropTurn).imp (⟨·, hcnt⟩) fun happend => .inl ⟨hturn, hcnt, happend⟩
  · have hframe := runStep_frame s.dropTurn
    exact .inl ⟨(congrArg State.q hframe :), (congrArg State.cnt hframe :)⟩
  · have hframe := sinkStep_frame s.dropTurn
    exact .inl ⟨(congrArg State.q hframe :), (congrArg State.cnt hframe :)⟩
  · exact absurd hr hreset

/-! ### The opcode latches (40 R118) -/

/-- The fetch step leaves `OP` and `ISTART` alone or latches the byte it pops and that byte's position. -/
theorem fetchStep_opcode (s : State) :
    ((fetchStep s).op = s.op ∧ (fetchStep s).istart = s.istart)
    ∨ ((fetchStep s).istart = s.cnt ∧ s.q = (fetchStep s).op :: (fetchStep s).q) := by
  obtain ⟨-, e⟩ | ⟨h, rest, hq, ⟨-, e⟩ | ⟨-, e⟩ | ⟨n, -, e⟩⟩ := fetchStep_cases s <;> rw [e]
  · exact .inl ⟨rfl, rfl⟩
  all_goals exact .inr ⟨rfl, hq⟩

theorem operandStep_opcode {s t : State} (h : operandStep s = .next t) : t.op = s.op ∧ t.istart = s.istart := by
  obtain ⟨-, rfl⟩ | ⟨c, rest, n, -, -, rfl⟩ := operandStep_next h <;> exact ⟨rfl, rfl⟩

/-- A step other than a reset leaves `OP` and `ISTART` alone, or is the FSM's in FETCH and latches the popped byte. -/
theorem step_opcode {s t : State} (hstep : step s = .next t) (hreset : s.nextTurn ≠ .reset) :
    (t.op = s.op ∧ t.istart = s.istart)
    ∨ (s.nextTurn = .fsm ∧ s.fsm = .fetch ∧ t.istart = s.cnt ∧ s.q = t.op :: t.q) := by
  obtain ⟨hturn, ⟨hf, rfl⟩ | ⟨-, ho⟩ | ⟨-, he⟩ | ⟨-, rfl⟩⟩ | ⟨-, rfl⟩ | ⟨-, rfl⟩ | ⟨-, rfl⟩ | ⟨hr, -⟩ :=
    step_next hstep
  · exact (fetchStep_opcode s.dropTurn).imp id fun hlatch => ⟨hturn, hf, hlatch⟩
  · exact .inl (operandStep_opcode (s := s.dropTurn) ho)
  · have hframe := execStep_frame he
    exact .inl ⟨(congrArg State.op hframe :), (congrArg State.istart hframe :)⟩
  · exact .inl ⟨rfl, rfl⟩
  · have hframe := producerStep_frame s.dropTurn
    exact .inl ⟨(congrArg State.op hframe :), (congrArg State.istart hframe :)⟩
  · have hframe := runStep_frame s.dropTurn
    exact .inl ⟨(congrArg State.op hframe :), (congrArg State.istart hframe :)⟩
  · have hframe := sinkStep_frame s.dropTurn
    exact .inl ⟨(congrArg State.op hframe :), (congrArg State.istart hframe :)⟩
  · exact absurd hr hreset

/-! ### The entries into FETCH (40 R118) -/

/-- An operand step goes to FAULT, EXEC or OPND, never to FETCH. -/
theorem operandStep_fsm_ne_fetch {s t : State} (h : operandStep s = .next t) : t.fsm ≠ .fetch := by
  obtain ⟨-, rfl⟩ | ⟨c, rest, n, -, -, rfl⟩ := operandStep_next h
  · simp
  · obtain ⟨-, e⟩ | ⟨-, e⟩ := afterOperand_cases (s.k + 1) n <;> simp [e]

/-- An EXEC step that goes to FETCH is of an instruction other than SAY, which waits for the sink. -/
theorem execStep_op_ne_say {s t : State} (h : execStep s = .next t) (hfetch : t.fsm = .fetch) : s.op ≠ 0x12 := by
  intro hsay
  rw [execStep_say hsay] at h
  cases h
  cases hfetch

theorem runStep_enters_fetch {s : State} (hs : s.fsm ≠ .fetch) (h : (runStep s).fsm = .fetch) : s.fsm = .idle := by
  obtain ⟨hidle, -, -⟩ | ⟨-, e⟩ := runStep_cases s
  · exact hidle
  · rw [e] at h
    exact absurd h hs

theorem sinkStep_enters_fetch {s : State} (hs : s.fsm ≠ .fetch) (h : (sinkStep s).fsm = .fetch) :
    s.fsm = .sayWait := by
  obtain ⟨hwait, -⟩ | ⟨-, e⟩ := sinkStep_cases s
  · exact hwait
  · rw [e] at h
    exact absurd h hs

/-- A step that enters FETCH is a run in IDLE, an EXEC step of an instruction other than SAY, or the completion of a
SAY. -/
theorem step_enters_fetch {s t : State} (hstep : step s = .next t) (hs : s.fsm ≠ .fetch) (ht : t.fsm = .fetch) :
    (s.fsm = .idle ∧ s.nextTurn = .run) ∨ (s.fsm = .exec ∧ s.nextTurn = .fsm ∧ s.op ≠ 0x12)
    ∨ (s.fsm = .sayWait ∧ s.nextTurn = .sink) := by
  obtain ⟨hturn, ⟨hf, -⟩ | ⟨-, ho⟩ | ⟨hf, he⟩ | ⟨-, rfl⟩⟩ | ⟨-, rfl⟩ | ⟨hturn, rfl⟩ | ⟨hturn, rfl⟩ | ⟨-, rfl⟩ :=
    step_next hstep
  · exact absurd hf hs
  · exact absurd ht (operandStep_fsm_ne_fetch ho)
  · exact .inr (.inl ⟨hf, hturn, execStep_op_ne_say (s := s.dropTurn) he ht⟩)
  · exact absurd ht hs
  · have hkept : (producerStep s.dropTurn).fsm = s.fsm :=
      (congrArg State.fsm (producerStep_frame s.dropTurn) :)
    exact absurd (hkept.symm.trans ht) hs
  · exact .inl ⟨runStep_enters_fetch (s := s.dropTurn) hs ht, hturn⟩
  · exact .inr (.inr ⟨sinkStep_enters_fetch (s := s.dropTurn) hs ht, hturn⟩)
  · cases ht

/-- Settles O36: the latches by what a step makes of `OP` and `ISTART`, the entries into FETCH by the agents that lead
there. -/
theorem instructionsNeverOverlap : Obligations.InstructionsNeverOverlap := by
  refine fun s t hstep hreset => ⟨fun hchanged => ?_, step_enters_fetch hstep⟩
  obtain ⟨hop, hpos⟩ | hlatch := step_opcode hstep hreset
  · exact absurd hchanged (not_or.mpr ⟨not_not.mpr hop, not_not.mpr hpos⟩)
  · exact hlatch

end Sys2Proof.Machine
end

section
/-! LOAD and ADD at dispatch: what each answers in each case of its rule, and the statements of 41_memory_arith.md. -/

namespace Sys2Proof.Machine

/-! ### Store and go on to FETCH, the completion that LOAD and ADD share (41 R130, R131) -/

/-- A completed store reaches nothing but memory and `FSM`. -/
theorem State.memWrite_goto_frame (a v : Byte) (st : Fsm) (s : State) :
    { (s.memWrite a v).goto st with mem := s.mem, fsm := s.fsm } = s := rfl

theorem State.memRead_memWrite_goto (a v : Byte) (st : Fsm) (s : State) (b : Byte) :
    ((s.memWrite a v).goto st).memRead b = if b = a then v else s.memRead b := by
  rw [State.goto_memRead, State.memRead_memWrite]

/-! ### What LOAD and ADD answer -/

/-- LOAD stores its immediate and completes, in every state (41 R130). -/
theorem exec_load (addr val : Byte) (s : State) :
    exec (.load addr val) s = .next ((s.memWrite addr val).goto .fetch) :=
  execLoad_eq addr val s

/-- A sum that fits a cell is stored (41 R131). -/
theorem exec_add_of_fits {x y : Byte} {s : State} (h : (s.memRead x).toNat + (s.memRead y).toNat ≤ 255) :
    exec (.add x y) s
      = .next ((s.memWrite x (sumByte (sum9 (s.memRead x) (s.memRead y)))).goto .fetch) := by
  rw [exec, execAdd_eq, if_neg (Nat.not_lt.mpr h)]

/-- A sum that does not fit a cell raises ArithmeticOverflow (41 R132). -/
theorem exec_add_of_overflow {x y : Byte} {s : State} (h : 255 < (s.memRead x).toNat + (s.memRead y).toNat) :
    exec (.add x y) s = .next (s.raise .arithmeticOverflow) := by
  rw [exec, execAdd_eq, if_pos h]

/-- Settles O11: LOAD is one completed store, read back by the law of `memWrite`. -/
theorem loadStoresImmediate : Obligations.LoadStoresImmediate := fun addr val s =>
  ⟨rfl, (s.memWrite addr val).goto .fetch, exec_load addr val s, State.memRead_memWrite_goto addr val .fetch s,
    State.goto_fsm _ _, State.memWrite_goto_frame addr val .fetch s⟩

/-- Settles O12: a sum that fits is a completed store of its low byte, which is then the exact sum; one that does not
fit is a fault entry. -/
theorem addStoresExactSumOrFaults : Obligations.AddStoresExactSumOrFaults := by
  refine ⟨fun _ _ => rfl, fun x y s hfits => ?_, fun x y s hover => exec_add_of_overflow hover⟩
  refine ⟨_, exec_add_of_fits hfits, ?_, fun b hb => ?_, State.goto_fsm _ _, State.memWrite_goto_frame _ _ _ s⟩
  · rw [State.memRead_memWrite_goto, if_pos rfl]
    exact sumByte_toNat hfits
  · rw [State.memRead_memWrite_goto, if_neg hb]

end Sys2Proof.Machine
end

section
/-! SAY and RET at dispatch: what each answers, and the statements of 42_output_control.md. -/

namespace Sys2Proof.Machine

/-- An announce and the way on reach nothing but `ANN`, `SAYV` and `FSM` (42 R150). -/
theorem State.announce_goto_frame (v : Byte) (st : Fsm) (s : State) :
    { (s.announce v).goto st with ann := s.ann, sayv := s.sayv, fsm := s.fsm } = s := rfl

/-- SAY announces the cell and waits in SAYWAIT, in every state: its range check never fails (42 R150, 20 R53). -/
theorem exec_say (addr : Byte) (s : State) :
    exec (.say addr) s = .next ((s.announce (s.memRead addr)).goto .sayWait) :=
  execSay_eq addr s

theorem exec_ret (s : State) : exec .ret s = .next (s.goto .fetch) := execRet_eq s

/-- Settles O13: SAY is one announce and the entry into SAYWAIT, which the completion of 40 R112 ends. -/
theorem sayAnnouncesCell : Obligations.SayAnnouncesCell := by
  refine fun addr s => ⟨rfl, (s.announce (s.memRead addr)).goto .sayWait, exec_say addr s, ?_⟩
  have hwait : ((s.announce (s.memRead addr)).goto .sayWait).fsm = .sayWait := State.goto_fsm _ _
  refine ⟨?ann, ?sayData, hwait, (State.sayReq_iff _).mpr hwait, fun b => ?memory,
    State.announce_goto_frame _ _ s, fun hsink => ?completion⟩
  case ann => rw [State.goto_ann, State.announce_ann]
  case sayData => rw [State.sayData, State.goto_sayv, State.announce_sayv]
  case memory => rw [State.goto_memRead, State.announce_memRead]
  case completion => exact (completionEndsOnlySayWait _ hsink).1 hwait

/-- Settles O14: RET only goes to FETCH. -/
theorem retDoesNothing : Obligations.RetDoesNothing := ⟨rfl, exec_ret⟩

end Sys2Proof.Machine
end

section
/-! The two states in which the core stands still: SAYWAIT until the sink completes, and FAULT until a reset. Only the
producer's turn has an effect there (60_exceptions.md R177, R187). -/

namespace Sys2Proof.Machine

/-! ### A turn in SAYWAIT without a completion, or in FAULT -/

/-- In SAYWAIT, on a turn that is neither a completion nor a reset, and in FAULT, on a turn that is no reset, a step is
the producer's or only uses up the turn. -/
theorem step_of_stalled {s : State} (hf : s.fsm = .sayWait ∧ s.nextTurn ≠ .sink ∨ s.fsm = .fault)
    (hreset : s.nextTurn ≠ .reset) :
    (s.nextTurn = .producer ∧ step s = .next (producerStep s.dropTurn))
    ∨ (s.nextTurn ≠ .producer ∧ step s = .next s.dropTurn) := by
  cases hturn : s.nextTurn with
  | fsm =>
    refine .inr ⟨by decide, ?_⟩
    rw [step_of_turn hturn]
    obtain ⟨hwait, -⟩ | hfault := hf
    · simp [agentStep, fsmStep, hwait]
    · simp [agentStep, fsmStep, hfault]
  | producer => exact .inl ⟨rfl, step_of_turn hturn⟩
  | run =>
    refine .inr ⟨by decide, ?_⟩
    rw [step_of_turn hturn, agentStep]
    obtain ⟨hidle, -, -⟩ | ⟨-, e⟩ := runStep_cases s.dropTurn
    · rw [State.dropTurn_fsm] at hidle
      simp [hidle] at hf
    · rw [e]
  | sink =>
    refine .inr ⟨by decide, ?_⟩
    rw [step_of_turn hturn, agentStep]
    obtain ⟨hwait, -⟩ | ⟨-, e⟩ := sinkStep_cases s.dropTurn
    · rw [State.dropTurn_fsm] at hwait
      simp [hwait, hturn] at hf
    · rw [e]
  | reset => exact absurd hturn hreset

/-- FAULT shows `faulted` and not `busy` (10_state.md R31). -/
theorem State.signals_of_fault {s : State} (h : s.fsm = .fault) : s.faulted = true ∧ s.busy = false := by
  simp [State.faulted, State.busy, logicalState, h]

/-- With nothing offered the producer's turn has no effect (40 R110). -/
theorem producerStep_of_offers_nil {s : State} (ho : s.offers = []) : producerStep s = s := by
  simp [producerStep, ho]

@[simp] theorem producerStep_fsm (s : State) : (producerStep s).fsm = s.fsm :=
  (congrArg State.fsm (producerStep_frame s) :)

@[simp] theorem producerStep_turns (s : State) : (producerStep s).turns = s.turns :=
  (congrArg State.turns (producerStep_frame s) :)

/-- Settles O31: in FAULT a step is the producer's, of which room and an offered byte decide the effect, or only uses up
the turn. -/
theorem onlyResetLeavesFault : Obligations.OnlyResetLeavesFault := by
  intro s hf hreset
  obtain ⟨hprod, hstep⟩ | ⟨hprod, hstep⟩ := step_of_stalled (.inr hf) hreset
  · have hfault : (producerStep s.dropTurn).fsm = .fault := (producerStep_fsm _).trans hf
    refine ⟨_, hstep, producerStep_frame s.dropTurn, absurd hprod, fun v more _ ho hroom => ?_, fun hheld => ?_,
      State.signals_of_fault hfault⟩
    · rw [producerStep_of_room (s := s.dropTurn) ho hroom]
      exact ⟨rfl, rfl⟩
    · have hsame : producerStep s.dropTurn = s.dropTurn :=
        hheld.elim (producerStep_of_offers_nil (s := s.dropTurn)) (producerStep_of_full (s := s.dropTurn))
      rw [hsame]
      exact ⟨rfl, rfl⟩
  · exact ⟨_, hstep, rfl, fun _ => ⟨rfl, rfl⟩, fun _ _ h => absurd h hprod, fun _ => ⟨rfl, rfl⟩,
      State.signals_of_fault (s := s.dropTurn) hf⟩

/-! ### A run without completions -/

/-- The next turn is one of those to come, or the FSM's after their end (40 R115). -/
theorem State.nextTurn_eq_fsm_or_mem (s : State) : s.nextTurn = .fsm ∨ s.nextTurn ∈ s.turns := by
  rw [State.nextTurn]
  cases s.turns with
  | nil => exact .inl rfl
  | cons turn rest => exact .inr List.mem_cons_self

/-- With no completion and no reset to come, the next turn is neither. -/
theorem State.nextTurn_silent {s : State} (h : ∀ turn ∈ s.turns, turn ≠ .sink ∧ turn ≠ .reset) :
    s.nextTurn ≠ .sink ∧ s.nextTurn ≠ .reset := by
  obtain e | hmem := s.nextTurn_eq_fsm_or_mem
  · rw [e]
    decide
  · exact h _ hmem

/-- One step in SAYWAIT with a silent sink: one turn is used up, and nothing else changes but the queue and the
producer's bytes. -/
theorem step_of_sayWait_silent {s : State} (hf : s.fsm = .sayWait)
    (hsilent : ∀ turn ∈ s.turns, turn ≠ .sink ∧ turn ≠ .reset) :
    ∃ t, step s = .next t ∧ t.turns = s.turns.tail
      ∧ { t with q := s.q, offers := s.offers, turns := s.turns } = s := by
  obtain ⟨hsink, hreset⟩ := State.nextTurn_silent hsilent
  obtain ⟨-, hstep⟩ | ⟨-, hstep⟩ := step_of_stalled (.inl ⟨hf, hsink⟩) hreset
  · exact ⟨_, hstep, producerStep_turns _,
      (congrArg ({ · with turns := s.turns }) (producerStep_frame s.dropTurn) :)⟩
  · exact ⟨_, hstep, rfl, rfl⟩

/-- States that differ only in the queue, the producer's bytes and the turns: a chain of two. -/
theorem State.environment_frame_trans {s t u : State}
    (hst : { t with q := s.q, offers := s.offers, turns := s.turns } = s)
    (htu : { u with q := t.q, offers := t.offers, turns := t.turns } = t) :
    { u with q := s.q, offers := s.offers, turns := s.turns } = s := by
  rw [← htu] at hst
  exact hst

/-- Settles O32: by induction on the number of steps; one step leads to a state in SAYWAIT with a silent sink again. -/
theorem silentSinkHangsInSayWait : Obligations.SilentSinkHangsInSayWait := by
  intro n
  induction n with
  | zero => exact fun s _ _ => ⟨s, run_zero s, rfl⟩
  | succ n ih =>
    intro s hf hsilent
    obtain ⟨t, hstep, hturns, hst⟩ := step_of_sayWait_silent hf hsilent
    have hfsm : t.fsm = .sayWait := (congrArg State.fsm hst :).trans hf
    have hrest : ∀ turn ∈ t.turns, turn ≠ .sink ∧ turn ≠ .reset := by
      rw [hturns]
      exact fun turn hmem => hsilent turn (List.mem_of_mem_tail hmem)
    obtain ⟨u, hrun, htu⟩ := ih t hfsm hrest
    exact ⟨u, (run_succ_of_next hstep n).trans hrun, State.environment_frame_trans hst htu⟩

end Sys2Proof.Machine
end

section
/-! The invariant over one step: what every state of a run has, what it has in each FSM state, and that each agent's step
keeps it. -/

namespace Sys2Proof.Machine

/-- The part of `Inv` that holds in every FSM state alike: memory's form, the queue's length, the sink's record. -/
def State.StorageOk (s : State) : Prop :=
  Memory.wf s.mem ∧ depthFits s.depth s.q.length = true ∧ s.annBase ≤ s.ann.length

theorem State.Inv.storage {s : State} (h : s.Inv) : s.StorageOk := ⟨h.memWf, h.queueFits, h.annBaseLe⟩

theorem State.Inv.noFault {s : State} (h : s.Inv) (hf : s.fsm ≠ .fault) : s.fkind = .noFault := by
  by_contra hk
  exact hf (h.faultedIff.mpr hk)

/-! ### `Inv` of a state, by its FSM state -/

/-- Outside FAULT the fault record is unwritten, and `Inv` asks no more of it. -/
theorem State.inv_of_running {s : State} (hs : s.StorageOk) (hk : s.fkind = .noFault) (hf : s.fsm ≠ .fault)
    (hcollecting : s.fsm = .opnd → ∃ n, nopnd s.op = some n ∧ s.k < n ∧ s.cnt = s.istart + 1 + s.k)
    (hready : s.fsm = .exec → nopnd s.op = some s.k ∧ s.cnt = s.istart + 1 + s.k)
    (hwaiting : s.fsm = .sayWait →
      s.op = 0x12 ∧ s.sayv = s.memRead s.a ∧ s.annBase < s.ann.length ∧ s.ann.getLast? = some s.sayv) : s.Inv := by
  obtain ⟨hmem, hqueue, hann⟩ := hs
  refine ⟨hmem, hqueue, hann, hcollecting, hready, hwaiting, ?_, ?_⟩
  · simp [hf, hk]
  · rw [hk]
    trivial

/-- At an instruction boundary no latch is in use. -/
theorem State.inv_of_boundary {s : State} (hs : s.StorageOk) (hk : s.fkind = .noFault)
    (hf : s.fsm = .idle ∨ s.fsm = .fetch) : s.Inv := by
  apply State.inv_of_running hs hk <;> obtain hf | hf := hf <;> simp [hf]

/-- A fault entry needs the record it writes to agree with `CNT` (60_exceptions.md R173). -/
theorem State.inv_raise {s : State} {kind : FaultKind} (hs : s.StorageOk) (hk : kind ≠ .noFault)
    (hrecord : FaultRecordOk kind s.op s.istart s.cnt) : (s.raise kind).Inv := by
  obtain ⟨hmem, hqueue, hann⟩ := hs
  exact ⟨hmem, hqueue, hann, nofun, nofun, nofun, ⟨fun _ => hk, fun _ => rfl⟩, hrecord⟩

/-! ### The storage under the state's operations -/

theorem State.StorageOk.consume {s : State} {c : Byte} {rest : List Byte} (hs : s.StorageOk) (hq : s.q = c :: rest) :
    (s.consume rest).StorageOk := by
  obtain ⟨hmem, hqueue, hann⟩ := hs
  refine ⟨hmem, depthFits_of_le hqueue ?_, hann⟩
  simp [hq]

theorem State.StorageOk.push {s : State} {v : Byte} (hs : s.StorageOk)
    (hroom : depthHasRoom s.depth s.q.length = true) : (s.push v).StorageOk := by
  obtain ⟨hmem, -, hann⟩ := hs
  refine ⟨hmem, ?_, hann⟩
  rw [State.push_q, List.length_append]
  exact depthFits_of_room hroom

theorem State.StorageOk.memWrite {s : State} (hs : s.StorageOk) (a v : Byte) : (s.memWrite a v).StorageOk :=
  ⟨Memory.write_wf a v hs.1, hs.2⟩

theorem State.StorageOk.announce {s : State} (hs : s.StorageOk) (v : Byte) : (s.announce v).StorageOk := by
  obtain ⟨hmem, hqueue, hann⟩ := hs
  refine ⟨hmem, hqueue, ?_⟩
  rw [State.announce_ann, List.length_append]
  exact Nat.le_add_right_of_le hann

/-- An empty queue fits every depth (00_scope.md R8). -/
theorem depthFits_zero (d : QueueDepth) : depthFits d 0 = true := by
  cases d <;> simp [depthFits]

theorem State.storageOk_resetStep (s : State) : s.resetStep.StorageOk :=
  ⟨Memory.reset_wf, depthFits_zero _, Nat.le_refl _⟩

/-! ### Each agent's step keeps `Inv` -/

/-- `Inv` does not speak of the turns to come. -/
theorem State.Inv.dropTurn {s : State} (h : s.Inv) : s.dropTurn.Inv :=
  ⟨h.memWf, h.queueFits, h.annBaseLe, h.collecting, h.ready, h.waiting, h.faultedIff, h.record⟩

theorem fetchStep_inv {s : State} (h : s.Inv) (hf : s.fsm = .fetch) : (fetchStep s).Inv := by
  have hk : s.fkind = .noFault := h.noFault (by simp [hf])
  obtain ⟨-, e⟩ | ⟨op, rest, hq, ⟨hn, e⟩ | ⟨hn, e⟩ | ⟨n, hn, e⟩⟩ := fetchStep_cases s <;> rw [e]
  · exact State.inv_of_boundary h.storage hk (.inl rfl)
  · exact State.inv_raise (h.storage.consume hq) (by decide) ⟨hn, rfl⟩
  · exact State.inv_of_running (h.storage.consume hq) hk nofun nofun (fun _ => ⟨hn, rfl⟩) nofun
  · exact State.inv_of_running (h.storage.consume hq) hk nofun (fun _ => ⟨n + 1, hn, n.succ_pos, rfl⟩) nofun nofun

theorem operandStep_inv {s t : State} (h : s.Inv) (hf : s.fsm = .opnd) (hstep : operandStep s = .next t) : t.Inv := by
  have hk : s.fkind = .noFault := h.noFault (by simp [hf])
  obtain ⟨n, hn, hlt, hcnt⟩ := h.collecting hf
  obtain ⟨-, rfl⟩ | ⟨c, rest, m, hq, hm, rfl⟩ := operandStep_next hstep
  · exact State.inv_raise h.storage (by decide) ⟨n, hn, by omega, by omega⟩
  · obtain rfl : n = m := Option.some.inj (hn.symm.trans hm)
    have hcnt' : s.cnt + 1 = s.istart + 1 + (s.k + 1) := by omega
    obtain ⟨hlast, e⟩ | ⟨hmore, e⟩ := afterOperand_cases (s.k + 1) n <;> rw [e]
    · exact State.inv_of_running (h.storage.consume hq) hk nofun nofun
        (fun _ => ⟨hn.trans (congrArg some hlast.symm), hcnt'⟩) nofun
    · have hlt' : s.k + 1 < n := by omega
      exact State.inv_of_running (h.storage.consume hq) hk nofun (fun _ => ⟨n, hn, hlt', hcnt'⟩) nofun nofun

theorem execStep_inv {s t : State} (h : s.Inv) (hf : s.fsm = .exec) (hstep : execStep s = .next t) : t.Inv := by
  have hk : s.fkind = .noFault := h.noFault (by simp [hf])
  obtain ⟨hn, hcnt⟩ := h.ready hf
  obtain ⟨-, rfl⟩ | ⟨hop, -, rfl⟩ | ⟨-, -, rfl⟩ | ⟨hop, rfl⟩ | ⟨-, rfl⟩ := execStep_next hstep
  · exact State.inv_of_boundary (h.storage.memWrite _ _) hk (.inr rfl)
  · have hk2 : 2 = s.k := Option.some.inj ((congrArg nopnd hop).symm.trans hn)
    exact State.inv_raise h.storage (by decide) ⟨hop, by omega⟩
  · exact State.inv_of_boundary (h.storage.memWrite _ _) hk (.inr rfl)
  · have hgrown : s.annBase < (s.ann ++ [s.memRead s.a]).length := by
      rw [List.length_append]
      exact Nat.lt_succ_of_le h.annBaseLe
    exact State.inv_of_running (h.storage.announce _) hk nofun nofun nofun
      (fun _ => ⟨hop, rfl, hgrown, List.getLast?_concat⟩)
  · exact State.inv_of_boundary h.storage hk (.inr rfl)

theorem producerStep_inv {s : State} (h : s.Inv) : (producerStep s).Inv := by
  obtain e | ⟨v, rest, -, hroom, e⟩ := producerStep_cases s <;> rw [e]
  · exact h
  · obtain ⟨hmem, hqueue, hann⟩ := h.storage.push (v := v) hroom
    exact ⟨hmem, hqueue, hann, h.collecting, h.ready, h.waiting, h.faultedIff, h.record⟩

theorem runStep_inv {s : State} (h : s.Inv) : (runStep s).Inv := by
  obtain ⟨hidle, -, e⟩ | ⟨-, e⟩ := runStep_cases s <;> rw [e]
  · exact State.inv_of_boundary h.storage (h.noFault (by simp [hidle])) (.inr rfl)
  · exact h

theorem sinkStep_inv {s : State} (h : s.Inv) : (sinkStep s).Inv := by
  obtain ⟨hwait, e⟩ | ⟨-, e⟩ := sinkStep_cases s <;> rw [e]
  · exact State.inv_of_boundary h.storage (h.noFault (by simp [hwait])) (.inr rfl)
  · exact h

theorem resetStep_inv (s : State) : s.resetStep.Inv :=
  State.inv_of_boundary s.storageOk_resetStep rfl (.inl rfl)

/-- Settles O37: by the agent whose turn it is, each of whose steps keeps `Inv`. -/
theorem stepKeepsInv : Obligations.StepKeepsInv := by
  intro s t h hstep
  obtain ⟨-, ⟨hf, rfl⟩ | ⟨hf, ho⟩ | ⟨hf, he⟩ | ⟨-, rfl⟩⟩ | ⟨-, rfl⟩ | ⟨-, rfl⟩ | ⟨-, rfl⟩ | ⟨-, rfl⟩ :=
    step_next hstep
  · exact fetchStep_inv h.dropTurn hf
  · exact operandStep_inv h.dropTurn hf ho
  · exact execStep_inv h.dropTurn hf he
  · exact h.dropTurn
  · exact producerStep_inv h.dropTurn
  · exact runStep_inv h.dropTurn
  · exact sinkStep_inv h.dropTurn
  · exact resetStep_inv _

/-- Settles O38: a reset state is at a boundary, with an empty queue and nothing announced. -/
theorem resetSatisfiesInv : Obligations.ResetSatisfiesInv :=
  State.inv_of_boundary ⟨Memory.reset_wf, depthFits_zero _, Nat.le_refl _⟩ rfl (.inl rfl)

/-! ### With `Inv` no step stops -/

/-- With an opcode of the table in `OP` the operand step answers a next state. -/
theorem operandStep_total {s : State} {n : Nat} (hn : nopnd s.op = some n) : ∃ t, operandStep s = .next t := by
  obtain ⟨-, e⟩ | ⟨c, rest, -, ⟨hnone, -⟩ | ⟨m, -, e⟩⟩ := operandStep_cases s
  · exact ⟨_, e⟩
  · rw [hn] at hnone
    cases hnone
  · exact ⟨_, e⟩

/-- With an opcode of the table in `OP` the EXEC step answers a next state. -/
theorem execStep_total {s : State} {n : Nat} (hn : nopnd s.op = some n) : ∃ t, execStep s = .next t := by
  obtain ⟨-, e⟩ | ⟨-, -, e⟩ | ⟨-, -, e⟩ | ⟨-, e⟩ | ⟨-, e⟩ | ⟨hnone, -⟩ := execStep_cases s
  · exact ⟨_, e⟩
  · exact ⟨_, e⟩
  · exact ⟨_, e⟩
  · exact ⟨_, e⟩
  · exact ⟨_, e⟩
  · rw [hn] at hnone
    cases hnone

theorem fsmStep_total {s : State} (h : s.Inv) : ∃ t, fsmStep s = .next t := by
  obtain ⟨-, e⟩ | ⟨hf, e⟩ | ⟨hf, e⟩ | ⟨-, e⟩ := fsmStep_cases s <;> rw [e]
  · exact ⟨_, rfl⟩
  · obtain ⟨n, hn, -, -⟩ := h.collecting hf
    exact operandStep_total hn
  · exact execStep_total (h.ready hf).1
  · exact ⟨_, rfl⟩

/-- Settles O39: only the FSM's step can stop, and `Inv` keeps its opcode in the table. -/
theorem invStatesNeverStop : Obligations.InvStatesNeverStop := by
  intro s h
  cases hturn : s.nextTurn with rw [step_of_turn hturn, agentStep]
  | fsm => exact fsmStep_total h.dropTurn
  | producer => exact ⟨_, rfl⟩
  | run => exact ⟨_, rfl⟩
  | sink => exact ⟨_, rfl⟩
  | reset => exact ⟨_, rfl⟩

end Sys2Proof.Machine
end

section
/-! What the latches not in use and an unwritten fault record hold: no step reads it and no observation shows it
(10_state.md R34, R36). -/

namespace Sys2Proof.Machine

/-- Two states equal but for the latches and the fault record: the first clause of `HiddenAgree`. -/
def State.SameButHidden (s t : State) : Prop :=
  { s with op := t.op, a := t.a, b := t.b, k := t.k, istart := t.istart, sayv := t.sayv, fop := t.fop,
           fpos := t.fpos } = t

/-- In IDLE and FETCH no latch is in use: only a written fault record has to agree. -/
theorem hiddenAgree_of_boundary {s t : State} (hsame : s.SameButHidden t) (hf : s.fsm = .idle ∨ s.fsm = .fetch)
    (hrec : s.fkind ≠ .noFault → s.fop = t.fop ∧ s.fpos = t.fpos) : HiddenAgree s t := by
  refine ⟨hsame, ?_, ?_, hrec⟩ <;> obtain hf | hf := hf <;> simp [hf]

/-- A fault entry writes the record from `OP` and `ISTART`, and no latch is in use after it. -/
theorem hiddenAgree_raise {s t : State} (kind : FaultKind) (hsame : s.SameButHidden t) (hop : s.op = t.op)
    (hpos : s.istart = t.istart) : HiddenAgree (s.raise kind) (t.raise kind) :=
  ⟨(congrArg (·.raise kind) hsame :), nofun, nofun, fun _ => ⟨hop, hpos⟩⟩

/-- States that agree show the same observation. -/
theorem HiddenAgree.observe {s t : State} (h : HiddenAgree s t) : s.observe = t.observe := by
  obtain ⟨hsame, -, -, hrec⟩ := h
  have hrecord : s.faultRecord = t.faultRecord := by
    have hk : s.fkind = t.fkind := (congrArg State.fkind hsame :)
    rw [State.faultRecord, State.faultRecord, ← hk]
    split
    · rfl
    · rename_i hwritten
      obtain ⟨hop, hpos⟩ := hrec hwritten
      rw [hop, hpos]
  have hrest : { s.observe with record := t.faultRecord } = t.observe :=
    (congrArg (fun u : State => { u.observe with record := t.faultRecord }) hsame :)
  rw [← hrest, ← hrecord]
  rfl

/-! ### Each agent's step from two states that agree -/

theorem HiddenAgree.dropTurn {s t : State} (h : HiddenAgree s t) : HiddenAgree s.dropTurn t.dropTurn :=
  ⟨(congrArg State.dropTurn h.1 :), h.2⟩

/-- The fetch step reads no latch and overwrites the latches that the next steps read. -/
theorem fetchStep_hidden {s t : State} (h : HiddenAgree s t) : HiddenAgree (fetchStep s) (fetchStep t) := by
  obtain ⟨hsame, -, -, hrec⟩ := h
  have hq : s.q = t.q := (congrArg State.q hsame :)
  have hcnt : s.cnt = t.cnt := (congrArg State.cnt hsame :)
  obtain ⟨hnil, e⟩ | ⟨op, rest, hcons, hlook⟩ := fetchStep_cases s
  · rw [e, fetchStep_of_q_nil (hq.symm.trans hnil)]
    exact hiddenAgree_of_boundary (congrArg (·.goto .idle) hsame :) (.inl rfl) hrec
  · have hcons' : t.q = op :: rest := hq.symm.trans hcons
    have hlatched : ((s.consume rest).latchOpcode s.cnt op).SameButHidden ((t.consume rest).latchOpcode t.cnt op) :=
      (congrArg (fun u : State => (u.consume rest).latchOpcode t.cnt op) hsame :)
    obtain ⟨hn, e⟩ | ⟨hn, e⟩ | ⟨n, hn, e⟩ := hlook <;> rw [e]
    · rw [fetchStep_of_unknown hcons' hn]
      exact hiddenAgree_raise _ hlatched rfl hcnt
    · rw [fetchStep_of_no_operand hcons' hn]
      exact ⟨(congrArg (·.goto .exec) hlatched :), fun _ => ⟨rfl, hcnt, rfl, nofun, nofun⟩, nofun, hrec⟩
    · rw [fetchStep_of_operands hcons' hn]
      exact ⟨(congrArg (·.goto .opnd) hlatched :), fun _ => ⟨rfl, hcnt, rfl, nofun, nofun⟩, nofun, hrec⟩

/-- The operand step reads `OP`, `K` and the operands collected before, which agree in OPND. -/
theorem operandStep_hidden {s t s' : State} (h : HiddenAgree s t) (hf : s.fsm = .opnd)
    (hstep : operandStep s = .next s') : ∃ t', operandStep t = .next t' ∧ HiddenAgree s' t' := by
  obtain ⟨hsame, hlatches, -, hrec⟩ := h
  obtain ⟨hop, hpos, hk, ha, -⟩ := hlatches (.inl hf)
  have hq : s.q = t.q := (congrArg State.q hsame :)
  obtain ⟨hnil, rfl⟩ | ⟨c, rest, n, hcons, hn, rfl⟩ := operandStep_next hstep
  · exact ⟨_, operandStep_of_q_nil (hq.symm.trans hnil), hiddenAgree_raise _ hsame hop hpos⟩
  · refine ⟨_, operandStep_of_q_cons (hq.symm.trans hcons) (hop ▸ hn), ?_⟩
    rw [← hk]
    refine ⟨(congrArg (fun u : State => ((u.consume rest).latchOperand c).goto (afterOperand (s.k + 1) n)) hsame :),
      fun _ => ⟨hop, hpos, congrArg (· + 1) hk, fun _ => ?_, fun h2 => ?_⟩, ?_, hrec⟩
    · by_cases h0 : s.k = 0
      · simp [← hk, h0]
      · simpa [← hk, h0] using ha (Nat.pos_of_ne_zero h0)
    · have h0 : s.k ≠ 0 := by simpa [Nat.pos_iff_ne_zero] using h2
      simp [← hk, h0]
    · obtain ⟨-, e⟩ | ⟨-, e⟩ := afterOperand_cases (s.k + 1) n <;> rw [e] <;> exact nofun

/-- The EXEC step reads `OP` and as many operands as that opcode takes, which `Inv` says are collected. -/
theorem execStep_hidden {s t s' : State} (hinv : s.Inv) (h : HiddenAgree s t) (hf : s.fsm = .exec)
    (hstep : execStep s = .next s') : ∃ t', execStep t = .next t' ∧ HiddenAgree s' t' := by
  obtain ⟨hsame, hlatches, -, hrec⟩ := h
  obtain ⟨hop, hpos, -, ha, hb⟩ := hlatches (.inr hf)
  obtain ⟨hn, -⟩ := hinv.ready hf
  have hread (x : Byte) : s.memRead x = t.memRead x := (congrArg (·.memRead x) hsame :)
  have hk {op : Byte} {n : Nat} (ho : s.op = op) (hcount : nopnd op = some n) : s.k = n := by
    rw [ho, hcount] at hn
    exact (Option.some.inj hn).symm
  obtain ⟨ho, rfl⟩ | ⟨ho, hsum, rfl⟩ | ⟨ho, hsum, rfl⟩ | ⟨ho, rfl⟩ | ⟨ho, rfl⟩ := execStep_next hstep
  · have hk2 : s.k = 2 := hk ho rfl
    rw [ha (by omega), hb (by omega)]
    exact ⟨_, execStep_load (hop ▸ ho),
      hiddenAgree_of_boundary (congrArg (fun u : State => (u.memWrite t.a t.b).goto .fetch) hsame :) (.inr rfl) hrec⟩
  · have hk2 : s.k = 2 := hk ho rfl
    rw [ha (by omega), hb (by omega), hread, hread] at hsum
    refine ⟨_, execStep_add (hop ▸ ho), ?_⟩
    rw [if_pos hsum]
    exact hiddenAgree_raise _ hsame hop hpos
  · have hk2 : s.k = 2 := hk ho rfl
    rw [ha (by omega), hb (by omega), hread, hread] at hsum ⊢
    refine ⟨_, execStep_add (hop ▸ ho), ?_⟩
    rw [if_neg hsum]
    exact hiddenAgree_of_boundary (congrArg
      (fun u : State => (u.memWrite t.a (sumByte (sum9 (t.memRead t.a) (t.memRead t.b)))).goto .fetch) hsame :)
      (.inr rfl) hrec
  · have hk1 : s.k = 1 := hk ho rfl
    rw [ha (by omega), hread]
    exact ⟨_, execStep_say (hop ▸ ho),
      (congrArg (fun u : State => (u.announce (t.memRead t.a)).goto .sayWait) hsame :), nofun, fun _ => rfl, hrec⟩
  · exact ⟨_, execStep_ret (hop ▸ ho), hiddenAgree_of_boundary (congrArg (·.goto .fetch) hsame :) (.inr rfl) hrec⟩

/-- IDLE, SAYWAIT and FAULT have no FSM step (40 R109, log entry 2). -/
theorem fsmStep_of_waiting {s : State} (hf : s.fsm = .idle ∨ s.fsm = .sayWait ∨ s.fsm = .fault) :
    fsmStep s = .next s := by
  obtain hf | hf | hf := hf <;> rw [fsmStep, hf]

theorem fsmStep_hidden {s t s' : State} (hinv : s.Inv) (h : HiddenAgree s t) (hstep : fsmStep s = .next s') :
    ∃ t', fsmStep t = .next t' ∧ HiddenAgree s' t' := by
  have hfsm : t.fsm = s.fsm := (congrArg State.fsm h.1.symm :)
  obtain ⟨hf, e⟩ | ⟨hf, e⟩ | ⟨hf, e⟩ | ⟨hf, e⟩ := fsmStep_cases s <;> rw [e] at hstep
  · cases hstep
    exact ⟨_, by rw [fsmStep, hfsm, hf], fetchStep_hidden h⟩
  · rw [fsmStep, hfsm, hf]
    exact operandStep_hidden h hf hstep
  · rw [fsmStep, hfsm, hf]
    exact execStep_hidden hinv h hf hstep
  · cases hstep
    exact ⟨t, fsmStep_of_waiting (by rwa [hfsm]), h⟩

theorem producerStep_hidden {s t : State} (h : HiddenAgree s t) : HiddenAgree (producerStep s) (producerStep t) := by
  have hoffers : t.offers = s.offers := (congrArg State.offers h.1.symm :)
  have hroom : depthHasRoom t.depth t.q.length = depthHasRoom s.depth s.q.length :=
    (congrArg (fun u : State => depthHasRoom u.depth u.q.length) h.1.symm :)
  cases ho : s.offers with
  | nil =>
    rw [producerStep_of_offers_nil ho, producerStep_of_offers_nil (hoffers.trans ho)]
    exact h
  | cons v rest =>
    cases hr : depthHasRoom s.depth s.q.length with
    | false =>
      rw [producerStep_of_full hr, producerStep_of_full (hroom.trans hr)]
      exact h
    | true =>
      rw [producerStep_of_room ho hr, producerStep_of_room (hoffers.trans ho) (hroom.trans hr)]
      exact ⟨(congrArg (fun u : State => { u.push v with offers := rest }) h.1 :), h.2⟩

/-- A run command as one condition on `FSM` and the queue (40 R102, R114). -/
theorem runStep_eq (s : State) : runStep s = if s.fsm = .idle ∧ s.q ≠ [] then s.goto .fetch else s := by
  obtain ⟨hidle, hq, e⟩ | ⟨hno, e⟩ := runStep_cases s
  · rw [e, if_pos ⟨hidle, hq⟩]
  · rw [e, if_neg fun ⟨hidle, hq⟩ => hno.elim (· hidle) hq]

/-- The environment's moves into FETCH, by a run or a completion, keep the agreement. -/
theorem HiddenAgree.goto_fetch {s t : State} (h : HiddenAgree s t) : HiddenAgree (s.goto .fetch) (t.goto .fetch) :=
  hiddenAgree_of_boundary (congrArg (·.goto .fetch) h.1 :) (.inr rfl) h.2.2.2

theorem runStep_hidden {s t : State} (h : HiddenAgree s t) : HiddenAgree (runStep s) (runStep t) := by
  have hfsm : t.fsm = s.fsm := (congrArg State.fsm h.1.symm :)
  have hq : t.q = s.q := (congrArg State.q h.1.symm :)
  rw [runStep_eq, runStep_eq, hfsm, hq]
  split
  · exact h.goto_fetch
  · exact h

theorem sinkStep_hidden {s t : State} (h : HiddenAgree s t) : HiddenAgree (sinkStep s) (sinkStep t) := by
  have hfsm : t.fsm = s.fsm := (congrArg State.fsm h.1.symm :)
  rw [sinkStep, sinkStep, hfsm]
  split
  · exact h.goto_fetch
  · exact h

theorem resetStep_hidden {s t : State} (h : HiddenAgree s t) : HiddenAgree s.resetStep t.resetStep :=
  hiddenAgree_of_boundary (congrArg State.resetStep h.1 :) (.inl rfl) (fun hk => absurd rfl hk)

/-- A step keeps the agreement, whichever agent's it is. -/
theorem step_hidden {s t s' : State} (hinv : s.Inv) (h : HiddenAgree s t) (hstep : step s = .next s') :
    ∃ t', step t = .next t' ∧ HiddenAgree s' t' := by
  have hturns : t.nextTurn = s.nextTurn := (congrArg State.nextTurn h.1.symm :)
  rw [step_of_turn hturns]
  cases hturn : s.nextTurn with rw [step_of_turn hturn, agentStep] at hstep
  | fsm => exact fsmStep_hidden hinv.dropTurn h.dropTurn hstep
  | producer =>
    cases hstep
    exact ⟨_, rfl, producerStep_hidden h.dropTurn⟩
  | run =>
    cases hstep
    exact ⟨_, rfl, runStep_hidden h.dropTurn⟩
  | sink =>
    cases hstep
    exact ⟨_, rfl, sinkStep_hidden h.dropTurn⟩
  | reset =>
    cases hstep
    exact ⟨_, rfl, resetStep_hidden h.dropTurn⟩

/-- Settles O40: `Inv` gives the first state its step, which the second follows. -/
theorem hiddenStateIsUnobservable : Obligations.HiddenStateIsUnobservable := by
  intro s t hs _ hagree
  obtain ⟨s', hs'⟩ := invStatesNeverStop s hs
  obtain ⟨t', ht', hagree'⟩ := step_hidden hs hagree hs'
  exact ⟨s', t', hs', ht', hagree', hagree'.observe⟩

end Sys2Proof.Machine
end

section
/-! The decoder against the encoder: whole programs, and the bytes of a decoded instruction (30_encoding.md R70, R72). -/

namespace Sys2Proof

/-- One more instruction at the head of a stream costs one more fuel. -/
theorem decodeStream_succ_of_decode {bs rest : List Byte} {i : Instr} {is : List Instr} {fuel : Nat}
    (hi : decode bs = .ok (i, rest)) (his : decodeStream fuel rest = .ok is) :
    decodeStream (fuel + 1) bs = .ok (i :: is) := by
  cases bs with
  | nil => cases hi
  | cons b bs => simp only [decodeStream, hi, his]

/-- Every instruction takes a byte (30 R71). -/
theorem encode_length_pos (i : Instr) : 0 < (encode i).length := by
  cases i <;> exact Nat.succ_pos _

/-- A fuel of the stream's length is enough: each instruction takes one fuel and at least one byte. -/
theorem decodeStream_encodeProgram (p : List Instr) :
    ∀ fuel, (encodeProgram p).length ≤ fuel → decodeStream fuel (encodeProgram p) = .ok p := by
  induction p with
  | nil => exact fun fuel _ => by cases fuel <;> rfl
  | cons i p ih =>
    intro fuel hfuel
    have hcons : encodeProgram (i :: p) = encode i ++ encodeProgram p := List.flatMap_cons
    have hpos := encode_length_pos i
    rw [hcons, List.length_append] at hfuel
    obtain ⟨fuel, rfl⟩ : ∃ f, fuel = f + 1 := ⟨fuel - 1, by omega⟩
    rw [hcons]
    exact decodeStream_succ_of_decode (decode_encode i _) (ih fuel (by omega))

/-- Settles O1: the program decoder's fuel is the stream's length. -/
theorem decodeEncodedProgram : Obligations.DecodeEncodedProgram :=
  fun p => decodeStream_encodeProgram p _ le_rfl

theorem decodeLoad_reencode : ∀ {bs i rest}, decodeLoad bs = .ok (i, rest) → 0x10 :: bs = encode i ++ rest
  | _ :: _ :: _, _, _, rfl => rfl

theorem decodeAdd_reencode : ∀ {bs i rest}, decodeAdd bs = .ok (i, rest) → 0x11 :: bs = encode i ++ rest
  | _ :: _ :: _, _, _, rfl => rfl

theorem decodeSay_reencode : ∀ {bs i rest}, decodeSay bs = .ok (i, rest) → 0x12 :: bs = encode i ++ rest
  | _ :: _, _, _, rfl => rfl

/-- Settles O2: by the opcode of the first byte, each operand reader taking exactly the bytes of its instruction. -/
theorem decodedBytesReencode : Obligations.DecodedBytesReencode := by
  intro bs i rest h
  cases bs with
  | nil => cases h
  | cons b bs =>
    obtain ⟨rfl, -⟩ | ⟨rfl, -⟩ | ⟨rfl, -⟩ | ⟨rfl, -⟩ | ⟨-, -, -, -, hnone⟩ := decodeOpcode_cases b
    · exact decodeLoad_reencode h
    · exact decodeAdd_reencode h
    · exact decodeSay_reencode h
    · cases h
      rfl
    · rw [decode_cons_of_decodeOpcode_eq_none hnone] at h
      cases h

/-- Settles O4: the first and the third word are whole encodings, the second and the fourth leave the byte after one. -/
theorem writtenWordsDecode : Obligations.WrittenWordsDecode :=
  ⟨decode_encode (.load 0x01 0x13) [], decode_encode (.add 0x00 0x01) [0x12], decode_encode (.say 0xFF) [],
    decode_encode .ret [0xFF]⟩

end Sys2Proof
end

section
/-! Listings read back (30_encoding.md R80): the digits, an operand, the operand list, the line. -/

namespace Sys2Proof.Machine

/-! ### Digits and operands -/

theorem hexDigitValue_hexDigit : ∀ n < 16, hexDigitValue (hexDigit n) = some n := by decide

theorem hexDigit_not_separator : ∀ n < 16, hexDigit n ≠ ' ' ∧ hexDigit n ≠ ',' := by decide

/-- No character of a listed byte is a space or a comma. -/
theorem listByte_not_separator (b : Byte) : ∀ c ∈ listByte b, c ≠ ' ' ∧ c ≠ ',' := by
  have hb := b.isLt
  have hhi := hexDigit_not_separator (b.toNat / 16) (by omega)
  have hlo := hexDigit_not_separator (b.toNat % 16) (by omega)
  simp [listByte, hhi, hlo]

/-- Both hexadecimal digits of a byte make the byte again. -/
theorem parseOperand_listByte (b : Byte) : parseOperand (listByte b) = some b := by
  have hb := b.isLt
  have hhi := hexDigitValue_hexDigit (b.toNat / 16) (by omega)
  have hlo := hexDigitValue_hexDigit (b.toNat % 16) (by omega)
  have hvalue : digitsValue 16 0 [hexDigit (b.toNat / 16), hexDigit (b.toNat % 16)] = some b.toNat := by
    have h1 : b.toNat / 16 < 16 := by omega
    have h2 : b.toNat % 16 < 16 := by omega
    have h3 : (0 * 16 + b.toNat / 16) * 16 + b.toNat % 16 = b.toNat := by omega
    simp only [digitsValue, hhi, hlo, if_pos h1, if_pos h2, h3]
  rw [listByte, parseOperand, hvalue, Option.map_some, BitVec.ofNat_toNat, BitVec.setWidth_eq]

/-! ### Trimming and splitting -/

/-- A text that does not begin with a space has no leading spaces to drop. -/
theorem dropWhile_space_of_head {cs : List Char} (h : cs.head? ≠ some ' ') : cs.dropWhile (· = ' ') = cs := by
  cases cs with
  | nil => rfl
  | cons c cs => exact List.dropWhile_cons_of_neg (by simpa using h)

/-- A text that neither begins nor ends with a space is trimmed already. -/
theorem trimSpaces_of_ends {cs : List Char} (hhead : cs.head? ≠ some ' ') (hlast : cs.getLast? ≠ some ' ') :
    trimSpaces cs = cs := by
  have hreverse : cs.reverse.head? ≠ some ' ' := by rwa [List.head?_reverse]
  rw [trimSpaces, dropWhile_space_of_head hhead, dropWhile_space_of_head hreverse, List.reverse_reverse]

/-- A leading space is trimmed. -/
theorem trimSpaces_space_cons (cs : List Char) : trimSpaces (' ' :: cs) = trimSpaces cs := rfl

theorem getLast?_listByte (b : Byte) (cs : List Char) :
    (cs ++ listByte b).getLast? = some (hexDigit (b.toNat % 16)) := by
  rw [listByte, List.getLast?_append]
  rfl

/-- A text that ends in a listed byte does not end in a space. -/
theorem getLast?_append_listByte_ne_space (cs : List Char) (b : Byte) : (cs ++ listByte b).getLast? ≠ some ' ' := by
  have hlo := hexDigit_not_separator (b.toNat % 16) (by omega)
  rw [getLast?_listByte]
  exact fun h => hlo.1 (Option.some.inj h)

theorem trimSpaces_listByte (b : Byte) : trimSpaces (listByte b) = listByte b :=
  trimSpaces_of_ends (by simp [listByte]) (getLast?_append_listByte_ne_space [] b)

/-- A text without commas is one part. -/
theorem splitCommas_of_no_comma {cs : List Char} (h : ∀ c ∈ cs, c ≠ ',') : splitCommas cs = [cs] := by
  induction cs with
  | nil => rfl
  | cons c cs ih =>
    obtain ⟨hc, hcs⟩ := List.forall_mem_cons.mp h
    rw [splitCommas, if_neg hc, ih hcs]

/-- The first comma ends the first part. -/
theorem splitCommas_append_comma {p : List Char} (h : ∀ c ∈ p, c ≠ ',') (cs : List Char) :
    splitCommas (p ++ ',' :: cs) = p :: splitCommas cs := by
  induction p with
  | nil => rfl
  | cons c p ih =>
    obtain ⟨hc, hp⟩ := List.forall_mem_cons.mp h
    rw [List.cons_append, splitCommas, if_neg hc, ih hp]

/-! ### The operand list and the line -/

theorem space_listByte_no_comma (b : Byte) : ∀ c ∈ ' ' :: listByte b, c ≠ ',' :=
  List.forall_mem_cons.mpr ⟨by decide, fun c hc => (listByte_not_separator b c hc).2⟩

theorem parseOperand_space_listByte (b : Byte) : parseOperand (trimSpaces (' ' :: listByte b)) = some b := by
  rw [trimSpaces_space_cons, trimSpaces_listByte, parseOperand_listByte]

/-- A text that holds more than spaces is read as operands between commas. -/
theorem parseOperands_of_text {cs : List Char} (h : trimSpaces cs ≠ []) :
    parseOperands cs = (splitCommas cs).mapM (fun p => parseOperand (trimSpaces p)) := if_neg h

theorem parseOperands_one (b : Byte) : parseOperands (' ' :: listByte b) = some [b] := by
  have htext : trimSpaces (' ' :: listByte b) ≠ [] := by
    rw [trimSpaces_space_cons, trimSpaces_listByte]
    exact List.cons_ne_nil _ _
  rw [parseOperands_of_text htext, splitCommas_of_no_comma (space_listByte_no_comma b)]
  simp [parseOperand_space_listByte]

theorem parseOperands_two (x y : Byte) :
    parseOperands (' ' :: listByte x ++ ',' :: ' ' :: listByte y) = some [x, y] := by
  have htext : trimSpaces (' ' :: listByte x ++ ',' :: ' ' :: listByte y) ≠ [] := by
    have hlast : (listByte x ++ ',' :: ' ' :: listByte y).getLast? ≠ some ' ' := by
      simpa using getLast?_append_listByte_ne_space (listByte x ++ [',', ' ']) y
    rw [List.cons_append, trimSpaces_space_cons, trimSpaces_of_ends (by simp [listByte]) hlast]
    exact List.cons_ne_nil _ _
  rw [parseOperands_of_text htext, splitCommas_append_comma (space_listByte_no_comma x),
    splitCommas_of_no_comma (space_listByte_no_comma y)]
  simp [parseOperand_space_listByte]

/-- A listed line has no space at its ends. -/
theorem trimSpaces_listInstr (i : Instr) : trimSpaces (listInstr i) = listInstr i := by
  cases i with
  | load addr val => exact trimSpaces_of_ends (by simp [listInstr]) (getLast?_append_listByte_ne_space _ val)
  | add x y => exact trimSpaces_of_ends (by simp [listInstr]) (getLast?_append_listByte_ne_space _ y)
  | say addr => exact trimSpaces_of_ends (by simp [listInstr]) (getLast?_append_listByte_ne_space _ addr)
  | ret => rfl

/-- A line is read in two parts, its mnemonic and its operands. -/
theorem assemble_of_parts {line : List Char} {o : Opcode} {operands : List Byte} (htrim : trimSpaces line = line)
    (hmnemonic : mnemonicOpcode (line.takeWhile (· ≠ ' ')) = some o)
    (hoperands : parseOperands (line.dropWhile (· ≠ ' ')) = some operands) : assemble line = instrOf o operands := by
  rw [assemble, htrim, hmnemonic]
  simp only [hoperands]

/-- Settles O5: by the instruction's format, two operands, one or none after the mnemonic. -/
theorem listingReadsBack : Obligations.ListingReadsBack := by
  intro i
  cases i with
  | load addr val =>
    exact assemble_of_parts (o := .load) (operands := [addr, val]) (trimSpaces_listInstr (.load addr val)) rfl
      (parseOperands_two addr val)
  | add x y =>
    exact assemble_of_parts (o := .add) (operands := [x, y]) (trimSpaces_listInstr (.add x y)) rfl
      (parseOperands_two x y)
  | say addr =>
    exact assemble_of_parts (o := .say) (operands := [addr]) (trimSpaces_listInstr (.say addr)) rfl
      (parseOperands_one addr)
  | ret => exact assemble_of_parts (o := .ret) (operands := []) (trimSpaces_listInstr .ret) rfl rfl

end Sys2Proof.Machine
end

section
/-! Memory lists: the canonical form is determined by its lookups (20_memory.md R50, log entry 5), and two stores to one
cell (R60). -/

namespace Sys2Proof.Machine

/-- Below every listed address nothing is listed. -/
theorem Memory.lookup_eq_none {m : List Host.Cell} {a : Nat} (h : ∀ c ∈ m, a < c.1) : Memory.lookup m a = none := by
  induction m with
  | nil => rfl
  | cons c m ih =>
    obtain ⟨hc, hm⟩ := List.forall_mem_cons.mp h
    rw [Memory.lookup, if_neg hc.ne', ih hm]

theorem Memory.lookup_head (k : Nat) (v : Byte) (m : List Host.Cell) : Memory.lookup ((k, v) :: m) k = some v :=
  if_pos rfl

/-- The least address of one list is no less than that of another that answers its lookup alike. -/
theorem Memory.le_of_lookup_eq {k l : Nat} {v w : Byte} {m n : List Host.Cell} (hn : ∀ c ∈ n, l < c.1)
    (h : Memory.lookup ((k, v) :: m) k = Memory.lookup ((l, w) :: n) k) : l ≤ k := by
  by_contra hlt
  have hbelow : ∀ c ∈ (l, w) :: n, k < c.1 :=
    List.forall_mem_cons.mpr ⟨Nat.lt_of_not_le hlt, fun c hc => (Nat.lt_of_not_le hlt).trans (hn c hc)⟩
  rw [Memory.lookup_head, Memory.lookup_eq_none hbelow] at h
  cases h

/-- Lists in rising order that answer every lookup alike are equal: their heads are, and then their tails answer alike. -/
theorem Memory.eq_of_lookup_eq {m n : List Host.Cell} (hm : m.Pairwise (·.1 < ·.1)) (hn : n.Pairwise (·.1 < ·.1))
    (h : ∀ a, Memory.lookup m a = Memory.lookup n a) : m = n := by
  induction m generalizing n with
  | nil =>
    cases n with
    | nil => rfl
    | cons d n =>
      have hd := h d.1
      rw [Memory.lookup_head] at hd
      cases hd
  | cons c m ih =>
    obtain ⟨hc, hmtail⟩ := List.pairwise_cons.mp hm
    cases n with
    | nil =>
      have hd := h c.1
      rw [Memory.lookup_head] at hd
      cases hd
    | cons d n =>
      obtain ⟨hd, hntail⟩ := List.pairwise_cons.mp hn
      obtain ⟨k, v⟩ := c
      obtain ⟨l, w⟩ := d
      obtain rfl : k = l := le_antisymm (Memory.le_of_lookup_eq hc (h l).symm) (Memory.le_of_lookup_eq hd (h k))
      have hv := h k
      rw [Memory.lookup_head, Memory.lookup_head] at hv
      have htails : ∀ a, Memory.lookup m a = Memory.lookup n a := by
        intro a
        by_cases ha : k = a
        · subst ha
          rw [Memory.lookup_eq_none hc, Memory.lookup_eq_none hd]
        · simpa [Memory.lookup, ha] using h a
      rw [Option.some.inj hv, ih hmtail hntail htails]

/-- Settles O7: the rising order of the canonical form is what makes the list unique. -/
theorem equalMemoriesAreEqualLists : Obligations.EqualMemoriesAreEqualLists :=
  fun _ _ hm hn h => Memory.eq_of_lookup_eq hm.1 hn.1 h

/-- Of two stores to one cell the later leaves the state it would leave alone. -/
theorem State.memWrite_memWrite (a v w : Byte) (s : State) : (s.memWrite a v).memWrite a w = s.memWrite a w := by
  rw [State.memWrite, State.memWrite_mem, Memory.write, Memory.write, Memory.insert_insert]
  rfl

/-- Settles O9: each LOAD is one store, and the second overwrites the first. -/
theorem laterLoadWins : Obligations.LaterLoadWins := by
  intro addr v w s
  refine ⟨_, _, exec_load addr v s, exec_load addr w _, ?_⟩
  have hstores : ((s.memWrite addr v).goto .fetch).memWrite addr w
      = ((s.memWrite addr v).memWrite addr w).goto .fetch := rfl
  rw [exec_load, hstores, State.memWrite_memWrite]
  rfl

/-! ### Instruction fetch does not reach memory (20_memory.md R62) -/

@[simp] theorem fetchStep_mem (s : State) : (fetchStep s).mem = s.mem := by
  obtain ⟨-, e⟩ | ⟨op, rest, -, ⟨-, e⟩ | ⟨-, e⟩ | ⟨n, -, e⟩⟩ := fetchStep_cases s <;> rw [e] <;> rfl

/-- The fetch step does the same for every content of memory. -/
theorem fetchStep_withMem (s : State) (m : List Host.Cell) :
    fetchStep { s with mem := m } = { fetchStep s with mem := m } := by
  obtain ⟨hq, e⟩ | ⟨op, rest, hq, ⟨hn, e⟩ | ⟨hn, e⟩ | ⟨n, hn, e⟩⟩ := fetchStep_cases s <;> rw [e]
  · exact fetchStep_of_q_nil (s := { s with mem := m }) hq
  · exact fetchStep_of_unknown (s := { s with mem := m }) hq hn
  · exact fetchStep_of_no_operand (s := { s with mem := m }) hq hn
  · exact fetchStep_of_operands (s := { s with mem := m }) hq hn

/-- The operand step leaves memory and does the same for every content of it. -/
theorem operandStep_withMem {s t : State} (h : operandStep s = .next t) (m : List Host.Cell) :
    t.mem = s.mem ∧ operandStep { s with mem := m } = .next { t with mem := m } := by
  obtain ⟨hq, rfl⟩ | ⟨c, rest, n, hq, hn, rfl⟩ := operandStep_next h
  · exact ⟨rfl, operandStep_of_q_nil (s := { s with mem := m }) hq⟩
  · exact ⟨rfl, operandStep_of_q_cons (s := { s with mem := m }) hq hn⟩

/-- Settles O10: the fetch and the operand step, neither of which reads or writes memory. -/
theorem fetchIgnoresMemory : Obligations.FetchIgnoresMemory := by
  intro s t m hturn hf hstep
  obtain hf | hf := hf
  · rw [step_of_fetch hturn hf] at hstep
    cases hstep
    rw [step_of_fetch (s := { s with mem := m }) hturn hf]
    exact ⟨fetchStep_mem _, congrArg _ (fetchStep_withMem s.dropTurn m)⟩
  · rw [step_of_opnd hturn hf] at hstep
    rw [step_of_opnd (s := { s with mem := m }) hturn hf]
    exact operandStep_withMem (s := s.dropTurn) hstep m

end Sys2Proof.Machine
end

section
/-! The state after the first launch and the ports of the fault record (10_state.md R26, R28, R31, R34). -/

namespace Sys2Proof.Machine

/-- Settles O27: the fields by evaluation; no cell is listed, the signals are those of IDLE, the queue is empty. -/
theorem resetStateAsSpecified : Obligations.ResetStateAsSpecified := by
  obtain ⟨hsay, hbusy, hfaulted⟩ := State.signals_of_idle (s := State.reset) rfl
  exact ⟨rfl, rfl, rfl, rfl, State.memRead_of_mem_nil rfl, rfl, hsay, hbusy, hfaulted, State.enqReady_of_q_nil rfl⟩

/-- Settles O45: the codes by the values of `FKIND`; each port shows its field. -/
theorem signalsShowFaultRecord : Obligations.SignalsShowFaultRecord := by
  have hcodes : ∀ f : FaultKind, (fkindCode f).toNat < 5 := by
    intro f
    cases f <;> decide
  exact ⟨rfl, rfl, rfl, rfl, rfl, hcodes, fun s => ⟨rfl, rfl⟩⟩

/-- Settles O44: the port is the position as a bit vector of `POS_WIDTH` bits. -/
theorem fposPortWraps : Obligations.FposPortWraps := fun s => BitVec.toNat_ofNat s.fpos Config.posWidth

end Sys2Proof.Machine
end

section
/-! The FSM's turn in EXEC and in the states without an FSM step (40_fetch_decode_dispatch.md R109), and short runs of the
FSM alone: a RET at a boundary, an instruction at the head of the queue, the race for a late operand byte. -/

namespace Sys2Proof.Machine

/-! ### The FSM's turn in EXEC and in the waiting states (40 R109) -/

/-- On the FSM's turn in EXEC, a step is the EXEC step. -/
theorem step_of_exec {s : State} (hturn : s.nextTurn = .fsm) (hf : s.fsm = .exec) : step s = execStep s.dropTurn := by
  rw [step_of_turn hturn]
  simp [agentStep, fsmStep, hf]

theorem execStep_of_latched {s : State} {i : Instr} (h : s.latched = some i) : execStep s = exec i s := by
  rw [execStep, h]

/-- Settles O20: the latches are read by the decoder. -/
theorem stepRunsLatchedInstruction : Obligations.StepRunsLatchedInstruction := by
  intro s i rest hturn hf hdecode
  have hlatched : s.dropTurn.latched = some i := by
    rw [State.latched, State.dropTurn_op, State.dropTurn_a, State.dropTurn_b, hdecode]
  rw [step_of_exec hturn hf, execStep_of_latched hlatched]
  rfl

/-- Settles O22: in the three states the FSM's turn finds no step to take. -/
theorem noFsmStepInWaitStates : Obligations.NoFsmStepInWaitStates := by
  intro s hturn hf
  rw [step_of_turn hturn, agentStep]
  exact fsmStep_of_waiting (s := s.dropTurn) hf

/-! ### Steps of the FSM alone -/

theorem State.nextTurn_of_nil {s : State} (h : s.turns = []) : s.nextTurn = .fsm := by
  rw [State.nextTurn, h]
  rfl

theorem State.goto_self {s : State} {st : Fsm} (h : s.fsm = st) : s.goto st = s := by
  rw [← h]
  rfl

/-! With no turn of another agent to come, a step is the FSM's and uses up no turn. -/

theorem step_of_fetch_alone {s : State} (hturns : s.turns = []) (hf : s.fsm = .fetch) :
    step s = .next (fetchStep s) := by
  rw [step_of_fetch (s.nextTurn_of_nil hturns) hf, dropTurn_of_nil hturns]

theorem step_of_opnd_alone {s : State} (hturns : s.turns = []) (hf : s.fsm = .opnd) : step s = operandStep s := by
  rw [step_of_opnd (s.nextTurn_of_nil hturns) hf, dropTurn_of_nil hturns]

theorem step_of_exec_alone {s : State} (hturns : s.turns = []) (hf : s.fsm = .exec) : step s = execStep s := by
  rw [step_of_exec (s.nextTurn_of_nil hturns) hf, dropTurn_of_nil hturns]

theorem run_two_of_next {s t u : State} (hst : step s = .next t) (htu : step t = .next u) :
    Host.Core.run core 2 s = .next u :=
  (run_succ_of_next hst 1).trans (run_succ_of_next htu 0)

/-- Settles O15: the fetch of RET and its EXEC step, back in FETCH. -/
theorem insertedRetOnlyCounts : Obligations.InsertedRetOnlyCounts := by
  intro s rest hturns hf hq
  have hfetch : step s = .next (((s.consume rest).latchOpcode s.cnt 0x13).goto .exec) := by
    rw [step_of_fetch_alone hturns hf, fetchStep_of_no_operand hq rfl]
  have hexec := (step_of_exec_alone (s := ((s.consume rest).latchOpcode s.cnt 0x13).goto .exec) hturns rfl).trans
    (execStep_ret rfl)
  have hback : s.goto .fetch = s := State.goto_self hf
  exact ⟨_, run_two_of_next hfetch hexec,
    (congrArg (fun u : State => { u with q := rest, cnt := s.cnt + 1 }) hback :),
    (congrArg (fun u : State => { u.observe with q := rest, cnt := s.cnt + 1 }) hback :)⟩

/-! ### An instruction at the head of the queue -/

/-- The queue's next bytes collected as operands, with `FSM` as it is: what the operand steps leave (40 R108). -/
def State.collect : List Byte → State → State
  | [], s => s
  | c :: cs, s => ((s.consume s.q.tail).latchOperand c).collect cs

theorem State.collect_q (cs : List Byte) (s : State) : (s.collect cs).q = s.q.drop cs.length := by
  induction cs generalizing s with
  | nil => rfl
  | cons c cs ih => rw [State.collect, ih, State.latchOperand_q, State.consume_q, List.length_cons, ← List.drop_tail]

theorem State.collect_cnt (cs : List Byte) (s : State) : (s.collect cs).cnt = s.cnt + cs.length := by
  induction cs generalizing s with
  | nil => rfl
  | cons c cs ih =>
    rw [State.collect, ih, State.latchOperand_cnt, State.consume_cnt, List.length_cons]
    omega

/-- Collecting operands reaches nothing but the queue, `CNT` and the operand latches. -/
theorem State.collect_frame (cs : List Byte) (s : State) :
    { s.collect cs with q := s.q, cnt := s.cnt, a := s.a, b := s.b, k := s.k } = s := by
  induction cs generalizing s with
  | nil => rfl
  | cons c cs ih =>
    exact (congrArg (fun u : State => { u with q := s.q, cnt := s.cnt, a := s.a, b := s.b, k := s.k })
      (ih ((s.consume s.q.tail).latchOperand c)) :)

/-- Collecting operands and moving `FSM` do not disturb each other. -/
theorem State.collect_goto (cs : List Byte) (st : Fsm) (s : State) :
    (s.goto st).collect cs = (s.collect cs).goto st := by
  induction cs generalizing s with
  | nil => rfl
  | cons c cs ih => exact ih ((s.consume s.q.tail).latchOperand c)

/-- The encoding's first byte is in the opcode table and says how many bytes follow it (30_encoding.md R71, R75). -/
theorem encodingShape (i : Instr) : Sys2Proof.Laws.EncodingShape.Statement i := by
  cases i with
  | load addr val => exact Sys2Proof.Laws.EncodingShape.load addr val
  | add x y => exact Sys2Proof.Laws.EncodingShape.add x y
  | say addr => exact Sys2Proof.Laws.EncodingShape.say addr
  | ret => exact Sys2Proof.Laws.EncodingShape.ret

/-- With all missing operands queued and only the FSM moving, one step for each leads from OPND to EXEC. -/
theorem run_operands {rest cs : List Byte} {c : Byte} {s : State} (hturns : s.turns = []) (hf : s.fsm = .opnd)
    (hq : s.q = c :: (cs ++ rest)) (hn : nopnd s.op = some (s.k + (cs.length + 1))) :
    Host.Core.run core (cs.length + 1) s = .next ((s.collect (c :: cs)).goto .exec) := by
  induction cs generalizing c s with
  | nil =>
    have hlast : step s = .next (((s.consume s.q.tail).latchOperand c).goto .exec) := by
      rw [step_of_opnd_alone hturns hf, operandStep_of_q_cons hq hn, hq]
      simp [afterOperand]
    exact run_succ_of_next hlast 0
  | cons d cs ih =>
    have hmore : step s = .next ((s.consume s.q.tail).latchOperand c) := by
      rw [step_of_opnd_alone hturns hf, operandStep_of_q_cons hq hn, hq]
      simp [afterOperand, State.goto_self, hf]
    have hq' : ((s.consume s.q.tail).latchOperand c).q = d :: (cs ++ rest) := congrArg List.tail hq
    have hn' : nopnd ((s.consume s.q.tail).latchOperand c).op
        = some (((s.consume s.q.tail).latchOperand c).k + (cs.length + 1)) := by
      rw [State.latchOperand_op, State.latchOperand_k, State.consume_op, State.consume_k, hn, List.length_cons]
      congr 1
      omega
    exact (run_succ_of_next hmore _).trans (ih hturns hf hq' hn')

/-- With an opcode and its operands queued and only the FSM moving, one step for each byte leads from FETCH to EXEC. -/
theorem run_fetch_operands {s : State} {op : Byte} {operands rest : List Byte} (hturns : s.turns = [])
    (hf : s.fsm = .fetch) (hq : s.q = op :: (operands ++ rest)) (hn : nopnd op = some operands.length) :
    Host.Core.run core (operands.length + 1) s
      = .next ((((s.consume s.q.tail).latchOpcode s.cnt op).collect operands).goto .exec) := by
  cases operands with
  | nil =>
    have hfetch : step s = .next (((s.consume s.q.tail).latchOpcode s.cnt op).goto .exec) := by
      rw [step_of_fetch_alone hturns hf, fetchStep_of_no_operand hq hn, hq]
      rfl
    exact run_succ_of_next hfetch 0
  | cons c cs =>
    have hfetch : step s = .next (((s.consume s.q.tail).latchOpcode s.cnt op).goto .opnd) := by
      rw [step_of_fetch_alone hturns hf, fetchStep_of_operands hq hn, hq]
      rfl
    have hq' : s.q.tail = c :: (cs ++ rest) := congrArg List.tail hq
    have hn' : nopnd op = some (0 + (cs.length + 1)) := hn.trans (by rw [List.length_cons, Nat.zero_add])
    rw [run_succ_of_next hfetch, List.length_cons]
    refine (run_operands (s := ((s.consume s.q.tail).latchOpcode s.cnt op).goto .opnd) hturns rfl hq' hn').trans ?_
    rw [State.collect_goto]
    rfl

/-- The bytes of an instruction, latched in stream order, read as that instruction (30_encoding.md R72). -/
theorem latched_of_encoding {i : Instr} {op : Byte} {operands : List Byte} (h : encode i = op :: operands) (pos : Nat)
    (s : State) : ((s.latchOpcode pos op).collect operands).latched = some i := by
  cases i <;> cases h <;> rfl

/-- Settles O21: the fetch and the operand steps leave the instruction's bytes in the latches, where EXEC reads them. -/
theorem queuedInstructionIsExecuted : Obligations.QueuedInstructionIsExecuted := by
  intro s i rest hturns hf hq
  obtain ⟨op, operands, hbytes, hn⟩ := encodingShape i
  rw [hbytes] at hq ⊢
  have hframe := State.collect_frame operands ((s.consume s.q.tail).latchOpcode s.cnt op)
  have hturns' : (((s.consume s.q.tail).latchOpcode s.cnt op).collect operands).turns = [] :=
    (congrArg State.turns hframe :).trans hturns
  refine ⟨_, run_fetch_operands hturns hf hq hn, rfl, ?q, ?cnt, (congrArg State.istart hframe :), ?frame, ?exec⟩
  case q => simp [State.collect_q, hq]
  case cnt =>
    rw [State.goto_cnt, State.collect_cnt, State.latchOpcode_cnt, State.consume_cnt, List.length_cons]
    omega
  case frame =>
    exact (congrArg ({ · with fsm := s.fsm, q := s.q, cnt := s.cnt, istart := s.istart, op := s.op, a := s.a,
                              b := s.b, k := s.k }) hframe :)
  case exec =>
    exact (step_of_exec_alone
      (s := (((s.consume s.q.tail).latchOpcode s.cnt op).collect operands).goto .exec) hturns' rfl).trans
      (execStep_of_latched (latched_of_encoding hbytes s.cnt (s.consume s.q.tail)))

/-! ### The race for a late operand byte (70_reset_and_hazards.md R206) -/

/-- Settles O28: in each order, what the first agent's step leaves meets the rule of the second agent's step. -/
theorem producerRaceHasBothOutcomes : Obligations.ProducerRaceHasBothOutcomes := by
  intro s v hf hop hk hq ho
  have hn : nopnd s.op = some 2 := by
    rw [hop]
    rfl
  have hroom : ∀ n, s.depth = .bounded n → s.q.length < n + 1 := s.enqReady_iff.mp (State.enqReady_of_q_nil hq)
  refine ⟨?inTime, ?late⟩
  case inTime =>
    have hpush := (producerAppendsOrIsHeld { s with turns := [.producer, .fsm] } v [] rfl ho).1 hroom
    have hlatch := (operandsCollectedInOrder { s with turns := [.fsm], q := s.q ++ [v], offers := [] } v [] 2 rfl hf
      (by simp [hq]) hn).2 (by simp [hk])
    exact ⟨_, run_two_of_next hpush hlatch, by simp [hk], rfl, rfl, rfl, rfl⟩
  case late =>
    have hstarve := emptyQueueStarvesOperand { s with turns := [.fsm, .producer] } rfl hf hq
    have hpush := (producerAppendsOrIsHeld
      { s with turns := [.producer], fkind := .starvedOperand, fop := s.op, fpos := s.istart, fsm := .fault }
      v [] rfl ho).1 hroom
    exact ⟨_, run_two_of_next hstarve hpush, rfl, rfl, hop, rfl, by simp [hq], rfl⟩

end Sys2Proof.Machine
end

section
/-! Safety of single steps: the edges of the transition table (40_fetch_decode_dispatch.md R101), progress (R115), the
entry into FAULT and its record (60_exceptions.md R172), the sink's record (R186). -/

namespace Sys2Proof.Machine

/-! ### The edges of the transition table (40 R101) -/

theorem fetchStep_edge (s : State) : edge .fsm .fetch (fetchStep s).fsm = true := by
  obtain ⟨-, e⟩ | ⟨op, rest, -, ⟨-, e⟩ | ⟨-, e⟩ | ⟨n, -, e⟩⟩ := fetchStep_cases s <;> rw [e] <;> rfl

theorem operandStep_edge {s t : State} (h : operandStep s = .next t) : edge .fsm .opnd t.fsm = true := by
  obtain ⟨-, rfl⟩ | ⟨c, rest, n, -, -, rfl⟩ := operandStep_next h
  · rfl
  · obtain ⟨-, e⟩ | ⟨-, e⟩ := afterOperand_cases (s.k + 1) n <;> rw [e] <;> rfl

theorem execStep_edge {s t : State} (h : execStep s = .next t) : edge .fsm .exec t.fsm = true := by
  obtain ⟨-, rfl⟩ | ⟨-, -, rfl⟩ | ⟨-, -, rfl⟩ | ⟨-, rfl⟩ | ⟨-, rfl⟩ := execStep_next h <;> rfl

theorem runStep_edge (s : State) : (runStep s).fsm = s.fsm ∨ edge .run s.fsm (runStep s).fsm = true := by
  obtain ⟨hidle, -, e⟩ | ⟨-, e⟩ := runStep_cases s
  · rw [e, hidle]
    exact .inr rfl
  · exact .inl (congrArg State.fsm e)

theorem sinkStep_edge (s : State) : (sinkStep s).fsm = s.fsm ∨ edge .sink s.fsm (sinkStep s).fsm = true := by
  obtain ⟨hwait, e⟩ | ⟨-, e⟩ := sinkStep_cases s
  · rw [e, hwait]
    exact .inr rfl
  · exact .inl (congrArg State.fsm e)

theorem reset_edge (f : Fsm) : edge .reset f .idle = true := by
  cases f <;> rfl

/-- Settles O29: each agent's step takes an edge of its own or leaves `FSM`. -/
theorem fsmFollowsTransitionTable : Obligations.FsmFollowsTransitionTable := by
  intro s t hstep hmoved
  obtain ⟨hturn, ⟨hf, rfl⟩ | ⟨hf, ho⟩ | ⟨hf, he⟩ | ⟨-, rfl⟩⟩ | ⟨-, rfl⟩ | ⟨hturn, rfl⟩ | ⟨hturn, rfl⟩
    | ⟨hturn, rfl⟩ := step_next hstep
  · rw [hturn, hf]
    exact fetchStep_edge _
  · rw [hturn, hf]
    exact operandStep_edge ho
  · rw [hturn, hf]
    exact execStep_edge he
  · exact absurd rfl hmoved
  · exact absurd (producerStep_fsm s.dropTurn) hmoved
  · rw [hturn]
    exact (runStep_edge s.dropTurn).resolve_left hmoved
  · rw [hturn]
    exact (sinkStep_edge s.dropTurn).resolve_left hmoved
  · rw [hturn]
    exact reset_edge _

/-- Settles O30: `Inv` gives the step; FETCH and EXEC have no edge to themselves, and OPND is kept only by popping an
operand. -/
theorem fsmStepAlwaysEnabled : Obligations.FsmStepAlwaysEnabled := by
  intro s hinv hturn hf
  obtain ⟨t, hstep⟩ := invStatesNeverStop s hinv
  refine ⟨t, hstep, ?_⟩
  obtain hf | hf | hf := hf
  · rw [step_of_fetch hturn hf] at hstep
    cases hstep
    have hedge := fetchStep_edge s.dropTurn
    refine .inl fun hkept => ?_
    rw [hkept, hf] at hedge
    cases hedge
  · rw [step_of_opnd hturn hf] at hstep
    obtain ⟨-, rfl⟩ | ⟨c, rest, n, -, -, rfl⟩ := operandStep_next hstep
    · refine .inl ?_
      rw [State.raise_fsm, hf]
      decide
    · exact .inr rfl
  · rw [step_of_exec hturn hf] at hstep
    have hedge := execStep_edge hstep
    refine .inl fun hkept => ?_
    rw [hkept, hf] at hedge
    cases hedge

/-! ### The entry into FAULT (60 R172) -/

theorem fetchStep_enters_fault {s : State} (h : (fetchStep s).fsm = .fault) :
    ∃ op rest, s.q = op :: rest ∧ fetchStep s = ((s.consume rest).latchOpcode s.cnt op).raise .unknownOpcode := by
  obtain ⟨-, e⟩ | ⟨op, rest, hq, ⟨-, e⟩ | ⟨-, e⟩ | ⟨n, -, e⟩⟩ := fetchStep_cases s
  · rw [e] at h
    cases h
  · exact ⟨op, rest, hq, e⟩
  · rw [e] at h
    cases h
  · rw [e] at h
    cases h

theorem operandStep_enters_fault {s t : State} (hstep : operandStep s = .next t) (h : t.fsm = .fault) :
    t = s.raise .starvedOperand := by
  obtain ⟨-, rfl⟩ | ⟨c, rest, n, -, -, rfl⟩ := operandStep_next hstep
  · rfl
  · rw [State.goto_fsm] at h
    obtain ⟨-, e⟩ | ⟨-, e⟩ := afterOperand_cases (s.k + 1) n <;> rw [e] at h <;> cases h

theorem execStep_enters_fault {s t : State} (hstep : execStep s = .next t) (h : t.fsm = .fault) :
    t = s.raise .arithmeticOverflow := by
  obtain ⟨-, rfl⟩ | ⟨-, -, rfl⟩ | ⟨-, -, rfl⟩ | ⟨-, rfl⟩ | ⟨-, rfl⟩ := execStep_next hstep
  · cases h
  · rfl
  · cases h
  · cases h
  · cases h

/-- The environment never enters FAULT: the step that does is the FSM's, in one of its three moving states. -/
theorem step_enters_fault {s t : State} (hstep : step s = .next t) (hs : s.fsm ≠ .fault) (ht : t.fsm = .fault) :
    s.nextTurn = .fsm ∧
      ((s.fsm = .fetch ∧ ∃ op rest, s.q = op :: rest
        ∧ t = ((s.dropTurn.consume rest).latchOpcode s.cnt op).raise .unknownOpcode)
      ∨ (s.fsm = .opnd ∧ t = s.dropTurn.raise .starvedOperand)
      ∨ (s.fsm = .exec ∧ t = s.dropTurn.raise .arithmeticOverflow)) := by
  obtain ⟨hturn, ⟨hf, rfl⟩ | ⟨hf, ho⟩ | ⟨hf, he⟩ | ⟨-, rfl⟩⟩ | ⟨-, rfl⟩ | ⟨-, rfl⟩ | ⟨-, rfl⟩ | ⟨-, rfl⟩ :=
    step_next hstep
  · exact ⟨hturn, .inl ⟨hf, fetchStep_enters_fault ht⟩⟩
  · exact ⟨hturn, .inr (.inl ⟨hf, operandStep_enters_fault ho ht⟩)⟩
  · exact ⟨hturn, .inr (.inr ⟨hf, execStep_enters_fault he ht⟩)⟩
  · exact absurd ht hs
  · exact absurd ((producerStep_fsm s.dropTurn).symm.trans ht) hs
  · obtain ⟨-, -, e⟩ | ⟨-, e⟩ := runStep_cases s.dropTurn <;> rw [e] at ht
    · cases ht
    · exact absurd ht hs
  · obtain ⟨-, e⟩ | ⟨-, e⟩ := sinkStep_cases s.dropTurn <;> rw [e] at ht
    · cases ht
    · exact absurd ht hs
  · cases ht

/-- Settles O33: by the state the fault is raised in; the record, the latches and the frame are those of `raise`. -/
theorem faultsArePrecise : Obligations.FaultsArePrecise := by
  intro s t hstep hs ht
  obtain ⟨hturn, ⟨hf, op, rest, hq, rfl⟩ | ⟨hf, rfl⟩ | ⟨hf, rfl⟩⟩ := step_enters_fault hstep hs ht
  · exact ⟨hturn, rfl, rfl, .inl ⟨hf, rfl, hq, rfl, rfl, rfl, rfl⟩⟩
  · exact ⟨hturn, rfl, rfl, .inr ⟨.inl ⟨hf, rfl⟩, rfl⟩⟩
  · exact ⟨hturn, rfl, rfl, .inr ⟨.inr ⟨hf, rfl⟩, rfl⟩⟩

/-! ### The fault record (10_state.md R28) -/

/-- The fault record as three fields, which two states have alike. -/
def State.SameRecord (s t : State) : Prop := t.fkind = s.fkind ∧ t.fop = s.fop ∧ t.fpos = s.fpos

theorem fetchStep_record (s : State) : s.SameRecord (fetchStep s) ∨ (fetchStep s).fsm = .fault := by
  obtain ⟨-, e⟩ | ⟨op, rest, -, ⟨-, e⟩ | ⟨-, e⟩ | ⟨n, -, e⟩⟩ := fetchStep_cases s <;> rw [e]
  · exact .inl ⟨rfl, rfl, rfl⟩
  · exact .inr rfl
  · exact .inl ⟨rfl, rfl, rfl⟩
  · exact .inl ⟨rfl, rfl, rfl⟩

theorem operandStep_record {s t : State} (h : operandStep s = .next t) : s.SameRecord t ∨ t.fsm = .fault := by
  obtain ⟨-, rfl⟩ | ⟨c, rest, n, -, -, rfl⟩ := operandStep_next h
  · exact .inr rfl
  · exact .inl ⟨rfl, rfl, rfl⟩

theorem execStep_record {s t : State} (h : execStep s = .next t) : s.SameRecord t ∨ t.fsm = .fault := by
  obtain ⟨-, rfl⟩ | ⟨-, -, rfl⟩ | ⟨-, -, rfl⟩ | ⟨-, rfl⟩ | ⟨-, rfl⟩ := execStep_next h
  · exact .inl ⟨rfl, rfl, rfl⟩
  · exact .inr rfl
  · exact .inl ⟨rfl, rfl, rfl⟩
  · exact .inl ⟨rfl, rfl, rfl⟩
  · exact .inl ⟨rfl, rfl, rfl⟩

/-- A step other than a reset keeps the record or enters FAULT. -/
theorem step_record {s t : State} (hstep : step s = .next t) (hreset : s.nextTurn ≠ .reset) :
    s.SameRecord t ∨ (s.fsm ≠ .fault ∧ t.fsm = .fault) := by
  obtain ⟨-, ⟨hf, rfl⟩ | ⟨hf, ho⟩ | ⟨hf, he⟩ | ⟨-, rfl⟩⟩ | ⟨-, rfl⟩ | ⟨-, rfl⟩ | ⟨-, rfl⟩ | ⟨hr, -⟩ := step_next hstep
  · exact (fetchStep_record s.dropTurn).imp id (⟨by simp [hf], ·⟩)
  · exact (operandStep_record ho).imp id (⟨by simp [hf], ·⟩)
  · exact (execStep_record he).imp id (⟨by simp [hf], ·⟩)
  · exact .inl ⟨rfl, rfl, rfl⟩
  · have hframe := producerStep_frame s.dropTurn
    exact .inl ⟨(congrArg State.fkind hframe :), (congrArg State.fop hframe :), (congrArg State.fpos hframe :)⟩
  · have hframe := runStep_frame s.dropTurn
    exact .inl ⟨(congrArg State.fkind hframe :), (congrArg State.fop hframe :), (congrArg State.fpos hframe :)⟩
  · have hframe := sinkStep_frame s.dropTurn
    exact .inl ⟨(congrArg State.fkind hframe :), (congrArg State.fop hframe :), (congrArg State.fpos hframe :)⟩
  · exact absurd hr hreset

/-- Settles O46: a step that enters FAULT is one of the three fault entries, each of which writes a kind. -/
theorem faultRecordWrittenOnlyAtEntry : Obligations.FaultRecordWrittenOnlyAtEntry := by
  refine fun s t hstep hreset => (step_record hstep hreset).imp id fun ⟨hs, ht⟩ => ⟨hs, ht, ?_⟩
  obtain ⟨-, ⟨-, op, rest, -, rfl⟩ | ⟨-, rfl⟩ | ⟨-, rfl⟩⟩ := step_enters_fault hstep hs ht
  all_goals exact ⟨nofun, rfl, rfl⟩

/-! ### The sink's record (60 R186) -/

theorem fetchStep_ann (s : State) : (fetchStep s).ann = s.ann := by
  obtain ⟨-, e⟩ | ⟨op, rest, -, ⟨-, e⟩ | ⟨-, e⟩ | ⟨n, -, e⟩⟩ := fetchStep_cases s <;> rw [e] <;> rfl

theorem operandStep_ann {s t : State} (h : operandStep s = .next t) : t.ann = s.ann := by
  obtain ⟨-, rfl⟩ | ⟨c, rest, n, -, -, rfl⟩ := operandStep_next h <;> rfl

/-- An EXEC step keeps the sink's record or is that of a SAY. -/
theorem execStep_ann {s t : State} (h : execStep s = .next t) :
    t.ann = s.ann ∨ (s.op = 0x12 ∧ t = (s.announce (s.memRead s.a)).goto .sayWait) := by
  obtain ⟨-, rfl⟩ | ⟨-, -, rfl⟩ | ⟨-, -, rfl⟩ | ⟨hop, rfl⟩ | ⟨-, rfl⟩ := execStep_next h
  · exact .inl rfl
  · exact .inl rfl
  · exact .inl rfl
  · exact .inr ⟨hop, rfl⟩
  · exact .inl rfl

/-- Settles O34: by the agent whose turn it is; every step but a SAY's EXEC step keeps the sink's record. -/
theorem announcesOnlyBySay : Obligations.AnnouncesOnlyBySay := by
  intro s t hstep hchanged
  obtain ⟨hturn, ⟨-, rfl⟩ | ⟨-, ho⟩ | ⟨hf, he⟩ | ⟨-, rfl⟩⟩ | ⟨-, rfl⟩ | ⟨-, rfl⟩ | ⟨-, rfl⟩ | ⟨-, rfl⟩ :=
    step_next hstep
  · exact absurd (fetchStep_ann s.dropTurn) hchanged
  · exact absurd (operandStep_ann ho) hchanged
  · obtain ⟨hop, rfl⟩ := (execStep_ann he).resolve_left hchanged
    exact ⟨hturn, hf, hop, rfl, rfl, rfl⟩
  · exact absurd rfl hchanged
  · exact absurd (congrArg State.ann (producerStep_frame s.dropTurn) :) hchanged
  · exact absurd (congrArg State.ann (runStep_frame s.dropTurn) :) hchanged
  · exact absurd (congrArg State.ann (sinkStep_frame s.dropTurn) :) hchanged
  · exact absurd rfl hchanged

end Sys2Proof.Machine
end

section
/-! Progress of an undisturbed run (40_fetch_decode_dispatch.md R115, R116; 70_reset_and_hazards.md R209): a bound on the
rounds to come, which each round of an FSM turn and a sink turn lowers. -/

namespace Sys2Proof.Machine

/-- Every step uses up the turn it takes, and no other (log entry 1). -/
theorem step_turns {s t : State} (h : step s = .next t) : t.turns = s.turns.tail := by
  obtain ⟨-, ⟨-, rfl⟩ | ⟨-, ho⟩ | ⟨-, he⟩ | ⟨-, rfl⟩⟩ | ⟨-, rfl⟩ | ⟨-, rfl⟩ | ⟨-, rfl⟩ | ⟨-, rfl⟩ := step_next h
  · obtain ⟨-, e⟩ | ⟨op, rest, -, ⟨-, e⟩ | ⟨-, e⟩ | ⟨n, -, e⟩⟩ := fetchStep_cases s.dropTurn <;> rw [e] <;> rfl
  · obtain ⟨-, rfl⟩ | ⟨c, rest, n, -, -, rfl⟩ := operandStep_next ho <;> rfl
  · exact (congrArg State.turns (execStep_frame he) :)
  · rfl
  · exact producerStep_turns s.dropTurn
  · exact (congrArg State.turns (runStep_frame s.dropTurn) :)
  · exact (congrArg State.turns (sinkStep_frame s.dropTurn) :)
  · rfl

/-- A bound on the rounds until the run has ended: two for each queued byte, one more to find the queue empty, and one
more again for an instruction in progress. -/
def State.roundsLeft (s : State) : Nat :=
  match s.fsm with
  | .idle => 0
  | .fault => 0
  | .fetch => 2 * s.q.length + 1
  | .opnd => 2 * s.q.length + 2
  | .exec => 2 * s.q.length + 2
  | .sayWait => 2 * s.q.length + 2

theorem State.roundsLeft_le (s : State) : s.roundsLeft ≤ 2 * s.q.length + 2 := by
  unfold State.roundsLeft
  split <;> omega

theorem State.ended_of_roundsLeft {s : State} (h : s.roundsLeft = 0) : s.ended := by
  unfold State.roundsLeft at h
  split at h
  case h_1 hf => exact .inl hf
  case h_2 hf => exact .inr hf
  all_goals omega

theorem fetchStep_roundsLeft (s : State) : (fetchStep s).roundsLeft ≤ 2 * s.q.length := by
  obtain ⟨-, e⟩ | ⟨op, rest, hq, ⟨-, e⟩ | ⟨-, e⟩ | ⟨n, -, e⟩⟩ := fetchStep_cases s <;> rw [e]
  · exact Nat.zero_le _
  · exact Nat.zero_le _
  all_goals
    rw [hq]
    exact State.roundsLeft_le _

theorem operandStep_roundsLeft {s t : State} (h : operandStep s = .next t) : t.roundsLeft ≤ 2 * s.q.length := by
  obtain ⟨-, rfl⟩ | ⟨c, rest, n, hq, -, rfl⟩ := operandStep_next h
  · exact Nat.zero_le _
  · rw [hq]
    exact State.roundsLeft_le _

/-- After an EXEC step the core is in FETCH, faulted, or waits for the sink, with the queue as it was. -/
theorem execStep_roundsLeft {s t : State} (h : execStep s = .next t) :
    t.roundsLeft ≤ 2 * s.q.length + 1 ∨ (t.fsm = .sayWait ∧ t.q = s.q) := by
  obtain ⟨-, rfl⟩ | ⟨-, -, rfl⟩ | ⟨-, -, rfl⟩ | ⟨-, rfl⟩ | ⟨-, rfl⟩ := execStep_next h
  · exact .inl le_rfl
  · exact .inl (Nat.zero_le _)
  · exact .inl le_rfl
  · exact .inr ⟨rfl, rfl⟩
  · exact .inl le_rfl

/-- An FSM turn lowers the bound, or leads into SAYWAIT, or finds the core there. -/
theorem fsmStep_roundsLeft {s t : State} (h : fsmStep s = .next t) :
    t.roundsLeft ≤ s.roundsLeft - 1 ∨ (t.fsm = .sayWait ∧ 2 * t.q.length + 1 ≤ s.roundsLeft - 1) := by
  obtain ⟨hf, e⟩ | ⟨hf, e⟩ | ⟨hf, e⟩ | ⟨hf | hf | hf, e⟩ := fsmStep_cases s <;> rw [e] at h
  · cases h
    simpa [State.roundsLeft, hf] using Or.inl (fetchStep_roundsLeft s)
  · have hle := operandStep_roundsLeft h
    have hs : s.roundsLeft = 2 * s.q.length + 2 := by rw [State.roundsLeft, hf]
    omega
  · have hs : s.roundsLeft = 2 * s.q.length + 2 := by rw [State.roundsLeft, hf]
    rw [hs]
    exact (execStep_roundsLeft h).imp id fun ⟨hwait, hq⟩ => ⟨hwait, (congrArg (2 * ·.length + 1) hq).le⟩
  all_goals
    cases h
    simp [State.roundsLeft, hf]

/-- A completion never raises the bound. -/
theorem sinkStep_roundsLeft (s : State) : (sinkStep s).roundsLeft ≤ s.roundsLeft := by
  obtain ⟨hf, e⟩ | ⟨-, e⟩ := sinkStep_cases s <;> rw [e]
  simp [State.roundsLeft, hf]

theorem sinkStep_roundsLeft_of_sayWait {s : State} (hf : s.fsm = .sayWait) :
    (sinkStep s).roundsLeft = 2 * s.q.length + 1 := by
  rw [sinkStep, if_pos hf]
  rfl

/-- One round, an FSM turn and a sink turn, keeps `Inv` and lowers the bound. -/
theorem run_round {s : State} {ts : List Turn} (hinv : s.Inv) (hturns : s.turns = .fsm :: .sink :: ts) :
    ∃ t u, step s = .next t ∧ step t = .next u ∧ u.Inv ∧ u.turns = ts ∧ u.roundsLeft ≤ s.roundsLeft - 1 := by
  obtain ⟨t, hst⟩ := invStatesNeverStop s hinv
  have hfsm : fsmStep s.dropTurn = .next t := by
    rwa [step_of_turn (t := .fsm) (by rw [State.nextTurn, hturns]; rfl)] at hst
  have htturns : t.turns = .sink :: ts := (step_turns hst).trans (congrArg List.tail hturns)
  have htu : step t = .next (sinkStep t.dropTurn) :=
    step_of_turn (t := .sink) (by rw [State.nextTurn, htturns]; rfl)
  have hu := stepKeepsInv t _ (stepKeepsInv s t hinv hst) htu
  refine ⟨t, _, hst, htu, hu, (step_turns htu).trans (congrArg List.tail htturns), ?_⟩
  obtain hlower | ⟨hwait, hlower⟩ := fsmStep_roundsLeft hfsm
  · exact (sinkStep_roundsLeft t.dropTurn).trans hlower
  · exact (sinkStep_roundsLeft_of_sayWait (s := t.dropTurn) hwait).trans_le hlower

/-- As many rounds as the bound says end the run. -/
theorem run_attentiveSink (n : Nat) {s : State} (hinv : s.Inv) (hturns : s.turns = attentiveSink n)
    (hbound : s.roundsLeft ≤ n) : ∃ u, Host.Core.run core (attentiveSink n).length s = .next u ∧ u.ended := by
  induction n generalizing s with
  | zero => exact ⟨s, run_zero s, s.ended_of_roundsLeft (Nat.le_zero.mp hbound)⟩
  | succ n ih =>
    obtain ⟨t, u, hst, htu, hu, huturns, hlower⟩ := run_round hinv hturns
    obtain ⟨v, hrun, hended⟩ := ih hu huturns (by omega)
    exact ⟨v, (run_succ_of_next hst _).trans ((run_succ_of_next htu _).trans hrun), hended⟩

/-- Settles O42: the bound never exceeds two rounds for each queued byte and two more. -/
theorem undisturbedRunEnds : Obligations.UndisturbedRunEnds := by
  intro s hinv hturns
  have hle := s.roundsLeft_le
  rw [hturns]
  exact run_attentiveSink _ hinv hturns (by omega)

end Sys2Proof.Machine
end

section
/-! The instruction-level view (40_fetch_decode_dispatch.md R117): what its operations leave of the queue, and that its
rounds depend neither on the turns nor on `K`, which it does not use. -/

namespace Sys2Proof.Machine

/-- What the view makes of the instruction in progress, with `i` operands collected: the other operands, then the
effect unless they starve. -/
def finishInstr (o : Opcode) (i : Nat) (s : State) : State :=
  if (wholeOperands i (operandCount o - i) s).fsm = .fault then wholeOperands i (operandCount o - i) s
  else wholeEffect o (wholeOperands i (operandCount o - i) s)

theorem wholeInstr_of_q_nil {s : State} (hq : s.q = []) : wholeInstr s = s.goto .idle := by
  simp [wholeInstr, State.pop, hq]

theorem wholeInstr_of_unknown {s : State} {op : Byte} {rest : List Byte} (hq : s.q = op :: rest)
    (hop : decodeOpcode op = none) :
    wholeInstr s = { s.consume rest with istart := s.cnt, op := op }.raise .unknownOpcode := by
  simp [wholeInstr, State.pop, hq, hop]

theorem wholeInstr_of_opcode {s : State} {op : Byte} {rest : List Byte} {o : Opcode} (hq : s.q = op :: rest)
    (hop : decodeOpcode op = some o) :
    wholeInstr s = finishInstr o 0 { s.consume rest with istart := s.cnt, op := op } := by
  simp only [wholeInstr, State.pop, hq, hop]
  rfl

/-- An operand missing on an empty queue starves the instruction. -/
theorem finishInstr_of_q_nil {o : Opcode} {i : Nat} {s : State} (hq : s.q = []) (hi : i < operandCount o) :
    finishInstr o i s = s.raise .starvedOperand := by
  obtain ⟨left, hleft⟩ : ∃ left, operandCount o - i = left + 1 := ⟨operandCount o - i - 1, by omega⟩
  have hstarved : wholeOperands i (operandCount o - i) s = s.raise .starvedOperand := by
    rw [hleft, wholeOperands, State.pop, hq]
  rw [finishInstr, hstarved, if_pos (State.raise_fsm _ _)]

/-- An operand missing is popped from the queue. -/
theorem finishInstr_of_q_cons {o : Opcode} {i : Nat} {s : State} {c : Byte} {rest : List Byte} (hq : s.q = c :: rest)
    (hi : i < operandCount o) :
    finishInstr o i s
      = finishInstr o (i + 1) (if i = 0 then { s.consume rest with a := c } else { s.consume rest with b := c }) := by
  have hleft : operandCount o - i = operandCount o - (i + 1) + 1 := by omega
  have hpopped : wholeOperands i (operandCount o - i) s = wholeOperands (i + 1) (operandCount o - (i + 1))
      (if i = 0 then { s.consume rest with a := c } else { s.consume rest with b := c }) := by
    rw [hleft, wholeOperands, State.pop, hq]
  rw [finishInstr, finishInstr, hpopped]

/-! ### The queue and the fuel of `run_to_end` -/

theorem wholeOperands_q_length (i left : Nat) (s : State) : (wholeOperands i left s).q.length ≤ s.q.length := by
  induction left generalizing i s with
  | zero => exact le_rfl
  | succ left ih =>
    rcases hq : s.q with _ | ⟨c, rest⟩
    · simp [wholeOperands, State.pop, hq]
    · simp only [wholeOperands, State.pop, hq]
      refine (ih _ _).trans ?_
      split <;> exact Nat.le_succ _

theorem wholeEffect_q (o : Opcode) (s : State) : (wholeEffect o s).q = s.q := by
  cases o with
  | load => rfl
  | add =>
    rw [wholeEffect]
    split <;> rfl
  | say => rfl
  | ret => rfl

theorem finishInstr_q_length (o : Opcode) (i : Nat) (s : State) : (finishInstr o i s).q.length ≤ s.q.length := by
  unfold finishInstr
  split
  · exact wholeOperands_q_length _ _ s
  · rw [wholeEffect_q]
    exact wholeOperands_q_length _ _ s

/-- A round that goes on has popped a byte. -/
theorem wholeInstr_q_length {s : State} (h : (wholeInstr s).fsm = .fetch) :
    (wholeInstr s).q.length < s.q.length := by
  rcases hq : s.q with _ | ⟨op, rest⟩
  · rw [wholeInstr_of_q_nil hq] at h
    cases h
  · rcases hop : decodeOpcode op with _ | o
    · rw [wholeInstr_of_unknown hq hop] at h
      cases h
    · rw [wholeInstr_of_opcode hq hop]
      exact Nat.lt_succ_of_le (finishInstr_q_length o 0 _)

theorem runToEnd_succ (n : Nat) (s : State) :
    runToEnd (n + 1) s = if (wholeInstr s).fsm = .fetch then runToEnd n (wholeInstr s) else wholeInstr s := rfl

/-- Any two numbers of rounds above the queue's length give the same run. -/
theorem runToEnd_eq_of_lt {s : State} {m n : Nat} (hm : s.q.length < m) (hn : s.q.length < n) :
    runToEnd m s = runToEnd n s := by
  induction m generalizing s n with
  | zero => exact absurd hm (Nat.not_lt_zero _)
  | succ m ih =>
    cases n with
    | zero => exact absurd hn (Nat.not_lt_zero _)
    | succ n =>
      rw [runToEnd_succ, runToEnd_succ]
      split
      · rename_i hfetch
        have hpopped := wholeInstr_q_length hfetch
        exact ih (by omega) (by omega)
      · rfl

/-- The view's end of a run: the rounds from FETCH; in every other state the run is not going on. -/
def State.runOut (s : State) : State := if s.fsm = .fetch then runToEnd (s.q.length + 1) s else s

theorem State.runOut_of_ended {s : State} (h : s.ended) : s.runOut = s := by
  refine if_neg fun hf => ?_
  rw [State.ended, hf] at h
  simp at h

/-- A round in FETCH does not change where the run ends. -/
theorem State.runOut_wholeInstr {s : State} (hf : s.fsm = .fetch) : (wholeInstr s).runOut = s.runOut := by
  rw [State.runOut, State.runOut, if_pos hf, runToEnd_succ s.q.length]
  split
  · rename_i hfetch
    have hpopped := wholeInstr_q_length hfetch
    exact runToEnd_eq_of_lt (Nat.lt_succ_self _) hpopped
  · rfl

/-! ### Without the turns and `K` -/

/-- The state without what the instruction-level view does not use: the turns to come and `K`. -/
def State.erase (s : State) : State := { s with k := 0, turns := [] }

theorem State.observe_erase (s : State) : s.erase.observe = s.observe := rfl

theorem wholeOperands_erase (i left : Nat) (s : State) :
    wholeOperands i left s.erase = (wholeOperands i left s).erase := by
  induction left generalizing i s with
  | zero => rfl
  | succ left ih =>
    have hq' : s.erase.q = s.q := rfl
    rcases hq : s.q with _ | ⟨c, rest⟩
    · simp only [wholeOperands, State.pop, hq', hq]
      rfl
    · simp only [wholeOperands, State.pop, hq', hq, ← ih]
      congr 1
      split <;> rfl

theorem wholeEffect_erase (o : Opcode) (s : State) : wholeEffect o s.erase = (wholeEffect o s).erase := by
  have hread (a : Byte) : s.erase.memRead a = s.memRead a := rfl
  cases o with
  | load => rfl
  | add =>
    rw [wholeEffect, wholeEffect, apply_ite State.erase]
    rfl
  | say => rfl
  | ret => rfl

theorem finishInstr_erase (o : Opcode) (i : Nat) (s : State) :
    finishInstr o i s.erase = (finishInstr o i s).erase := by
  rw [finishInstr, finishInstr, wholeOperands_erase, wholeEffect_erase]
  exact (apply_ite State.erase _ _ _).symm

theorem wholeInstr_erase (s : State) : wholeInstr s.erase = (wholeInstr s).erase := by
  rcases hq : s.q with _ | ⟨op, rest⟩
  · rw [wholeInstr_of_q_nil hq, wholeInstr_of_q_nil (s := s.erase) hq]
    rfl
  · rcases hop : decodeOpcode op with _ | o
    · rw [wholeInstr_of_unknown hq hop, wholeInstr_of_unknown (s := s.erase) hq hop]
      rfl
    · rw [wholeInstr_of_opcode hq hop, wholeInstr_of_opcode (s := s.erase) hq hop, ← finishInstr_erase]
      rfl

theorem runToEnd_erase (n : Nat) (s : State) : runToEnd n s.erase = (runToEnd n s).erase := by
  induction n generalizing s with
  | zero => rfl
  | succ n ih =>
    rw [runToEnd_succ, runToEnd_succ, wholeInstr_erase, ih]
    exact (apply_ite State.erase _ _ _).symm

end Sys2Proof.Machine
end

section
/-! The atomic steps against the instruction-level view: each FSM step and each completion keeps the state in which the
view completes the instruction in progress, but a fetch, which starts the view's next round (40 R117). -/

namespace Sys2Proof.Machine

/-- In OPND operands are missing and in EXEC none is: what the fetch and operand steps make of `OP` and `K` (40 R105,
R108). Unlike `Inv` it holds in every state in FETCH. -/
def State.LatchesOk (s : State) : Prop :=
  (s.fsm = .opnd → ∃ o, decodeOpcode s.op = some o ∧ s.k < operandCount o)
  ∧ (s.fsm = .exec → ∃ o, decodeOpcode s.op = some o ∧ s.k = operandCount o)

/-- The instruction in progress completed as the view does it, its announce included, back in FETCH. -/
def State.completed (s : State) : State :=
  match s.fsm with
  | .opnd => ((decodeOpcode s.op).map (finishInstr · s.k (s.erase.goto .fetch))).getD s.erase
  | .exec => ((decodeOpcode s.op).map (finishInstr · s.k (s.erase.goto .fetch))).getD s.erase
  | .sayWait => s.erase.goto .fetch
  | .idle => s.erase
  | .fetch => s.erase
  | .fault => s.erase

theorem State.completed_dropTurn (s : State) : s.dropTurn.completed = s.completed := rfl

theorem State.completed_of_boundary {s : State} (hf : s.fsm = .idle ∨ s.fsm = .fetch ∨ s.fsm = .fault) :
    s.completed = s.erase := by
  obtain hf | hf | hf := hf <;> rw [State.completed, hf]

theorem State.completed_of_progress {s : State} {o : Opcode} (hf : s.fsm = .opnd ∨ s.fsm = .exec)
    (hop : decodeOpcode s.op = some o) : s.completed = finishInstr o s.k (s.erase.goto .fetch) := by
  obtain hf | hf := hf <;> rw [State.completed, hf, hop] <;> rfl

/-- With all operands collected only the effect is missing. -/
theorem State.completed_of_exec {s : State} {o : Opcode} (hf : s.fsm = .exec) (hop : decodeOpcode s.op = some o)
    (hk : s.k = operandCount o) : s.completed = wholeEffect o (s.erase.goto .fetch) := by
  rw [State.completed_of_progress (.inr hf) hop, finishInstr, hk, Nat.sub_self]
  rfl

theorem State.latchesOk_of_not_progress {s : State} (h : s.fsm ≠ .opnd) (h' : s.fsm ≠ .exec) : s.LatchesOk :=
  ⟨(absurd · h), (absurd · h')⟩

theorem nopnd_of_decodeOpcode {op : Byte} {o : Opcode} (h : decodeOpcode op = some o) :
    nopnd op = some (operandCount o) := by
  rw [nopnd, h, Option.map_some]

/-! ### The FSM's steps -/

/-- A fetch step leaves the state that the view's next round completes. -/
theorem fetchStep_completed {s : State} (hf : s.fsm = .fetch) :
    (fetchStep s).LatchesOk ∧ (fetchStep s).completed = wholeInstr s.completed := by
  rw [State.completed_of_boundary (.inr (.inl hf))]
  obtain ⟨hq, e⟩ | ⟨op, rest, hq, hlook⟩ := fetchStep_cases s
  · rw [e, wholeInstr_of_q_nil (s := s.erase) hq]
    exact ⟨State.latchesOk_of_not_progress nofun nofun, rfl⟩
  · rcases hop : decodeOpcode op with _ | o
    · have hn : nopnd op = none := by rw [nopnd, hop, Option.map_none]
      rw [fetchStep_of_unknown hq hn, wholeInstr_of_unknown (s := s.erase) hq hop]
      exact ⟨State.latchesOk_of_not_progress nofun nofun, rfl⟩
    · have hn := nopnd_of_decodeOpcode hop
      have hview : finishInstr o 0 { (s.erase.goto .fetch).consume rest with istart := s.cnt, op := op }
          = wholeInstr s.erase := by
        rw [wholeInstr_of_opcode (s := s.erase) hq hop, State.goto_self (s := s.erase) hf]
        rfl
      rw [← hview]
      cases hcount : operandCount o with
      | zero =>
        rw [fetchStep_of_no_operand hq (hcount ▸ hn)]
        exact ⟨⟨nofun, fun _ => ⟨o, hop, hcount.symm⟩⟩, State.completed_of_progress (.inr rfl) hop⟩
      | succ n =>
        rw [fetchStep_of_operands hq (hcount ▸ hn)]
        exact ⟨⟨fun _ => ⟨o, hop, hcount ▸ n.succ_pos⟩, nofun⟩, State.completed_of_progress (.inl rfl) hop⟩

/-- An operand step does what the view does with one operand. -/
theorem operandStep_completed {s t : State} (hlatches : s.LatchesOk) (hf : s.fsm = .opnd)
    (h : operandStep s = .next t) : t.LatchesOk ∧ t.completed = s.completed := by
  obtain ⟨o, hop, hk⟩ := hlatches.1 hf
  rw [State.completed_of_progress (.inl hf) hop]
  obtain ⟨hq, rfl⟩ | ⟨c, rest, n, hq, hn, rfl⟩ := operandStep_next h
  · rw [finishInstr_of_q_nil (s := s.erase.goto .fetch) hq hk]
    exact ⟨State.latchesOk_of_not_progress nofun nofun, rfl⟩
  · obtain rfl : operandCount o = n := Option.some.inj ((nopnd_of_decodeOpcode hop).symm.trans hn)
    have hlatched : (((s.consume rest).latchOperand c).goto .fetch).erase
        = if s.k = 0 then { (s.erase.goto .fetch).consume rest with a := c }
          else { (s.erase.goto .fetch).consume rest with b := c } := by
      split
      · rename_i h0
        rw [State.latchOperand_of_first (s := s.consume rest) h0]
        rfl
      · rename_i h0
        rw [State.latchOperand_of_later (s := s.consume rest) h0]
        rfl
    rw [finishInstr_of_q_cons (s := s.erase.goto .fetch) hq hk, ← hlatched]
    obtain ⟨hlast, e⟩ | ⟨hmore, e⟩ := afterOperand_cases (s.k + 1) (operandCount o) <;> rw [e]
    · exact ⟨⟨nofun, fun _ => ⟨o, hop, hlast⟩⟩, State.completed_of_progress (.inr rfl) hop⟩
    · have hlt : s.k + 1 < operandCount o := by omega
      exact ⟨⟨fun _ => ⟨o, hop, hlt⟩, nofun⟩, State.completed_of_progress (.inl rfl) hop⟩

/-- The EXEC step has the view's effect, a SAY's up to its completion. -/
theorem execStep_completed {s t : State} (hlatches : s.LatchesOk) (hf : s.fsm = .exec)
    (h : execStep s = .next t) : t.LatchesOk ∧ t.completed = s.completed := by
  obtain ⟨o, hop, hk⟩ := hlatches.2 hf
  rw [State.completed_of_exec hf hop hk]
  have heffect {op : Byte} {o' : Opcode} (ho : s.op = op) (ho' : decodeOpcode op = some o') : o = o' := by
    rw [ho, ho'] at hop
    exact (Option.some.inj hop).symm
  obtain ⟨ho, rfl⟩ | ⟨ho, hsum, rfl⟩ | ⟨ho, hsum, rfl⟩ | ⟨ho, rfl⟩ | ⟨ho, rfl⟩ := execStep_next h
  · rw [heffect ho rfl]
    exact ⟨State.latchesOk_of_not_progress nofun nofun, rfl⟩
  · rw [heffect ho rfl]
    exact ⟨State.latchesOk_of_not_progress nofun nofun, (if_pos ((sumOverflows_iff _ _).mpr hsum)).symm⟩
  · rw [heffect ho rfl]
    exact ⟨State.latchesOk_of_not_progress nofun nofun, (if_neg ((sumOverflows_iff _ _).not.mpr hsum)).symm⟩
  · rw [heffect ho rfl]
    exact ⟨State.latchesOk_of_not_progress nofun nofun, rfl⟩
  · rw [heffect ho rfl]
    exact ⟨State.latchesOk_of_not_progress nofun nofun, rfl⟩

/-! ### Any undisturbed step, any undisturbed run -/

/-- An FSM turn leaves where the view ends the run. -/
theorem fsmStep_runOut {s t : State} (hlatches : s.LatchesOk) (h : fsmStep s = .next t) :
    t.LatchesOk ∧ t.completed.runOut = s.completed.runOut := by
  obtain ⟨hf, e⟩ | ⟨hf, e⟩ | ⟨hf, e⟩ | ⟨-, e⟩ := fsmStep_cases s <;> rw [e] at h
  · cases h
    have hboundary : s.completed.fsm = .fetch := by
      rw [State.completed_of_boundary (.inr (.inl hf))]
      exact hf
    obtain ⟨hlatches', hround⟩ := fetchStep_completed hf
    exact ⟨hlatches', (congrArg State.runOut hround).trans (State.runOut_wholeInstr hboundary)⟩
  · exact (operandStep_completed hlatches hf h).imp id (congrArg State.runOut)
  · exact (execStep_completed hlatches hf h).imp id (congrArg State.runOut)
  · cases h
    exact ⟨hlatches, rfl⟩

/-- A completion is what the view has done already. -/
theorem sinkStep_completed {s : State} (hlatches : s.LatchesOk) :
    (sinkStep s).LatchesOk ∧ (sinkStep s).completed = s.completed := by
  obtain ⟨hf, e⟩ | ⟨-, e⟩ := sinkStep_cases s <;> rw [e]
  · refine ⟨State.latchesOk_of_not_progress nofun nofun, ?_⟩
    rw [State.completed, State.completed, hf]
    rfl
  · exact ⟨hlatches, rfl⟩

theorem step_runOut {s t : State} (hlatches : s.LatchesOk) (hturns : undisturbed s.turns) (h : step s = .next t) :
    t.LatchesOk ∧ t.completed.runOut = s.completed.runOut := by
  have hturn : s.nextTurn = .fsm ∨ s.nextTurn = .sink := s.nextTurn_eq_fsm_or_mem.elim .inl (hturns _)
  rw [← s.completed_dropTurn]
  obtain hturn | hturn := hturn <;> rw [step_of_turn hturn, agentStep] at h
  · exact fsmStep_runOut (s := s.dropTurn) hlatches h
  · cases h
    exact (sinkStep_completed (s := s.dropTurn) hlatches).imp id (congrArg State.runOut)

/-- A run of one step more begins with a step that answers. -/
theorem run_succ_next {n : Nat} {s u : State} (h : Host.Core.run core (n + 1) s = .next u) :
    ∃ t, step s = .next t ∧ Host.Core.run core n t = .next u := by
  rcases hs : step s with t | r | r
  · exact ⟨t, rfl, (run_succ_of_next hs n).symm.trans h⟩
  · exact r.casesOn
  · have hc : core.step s = .refused r := hs
    simp only [Host.Core.run, hc, reduceCtorEq] at h

theorem run_runOut (n : Nat) {s u : State} (hlatches : s.LatchesOk) (hturns : undisturbed s.turns)
    (h : Host.Core.run core n s = .next u) : u.completed.runOut = s.completed.runOut := by
  induction n generalizing s with
  | zero =>
    cases h
    rfl
  | succ n ih =>
    obtain ⟨t, hst, htu⟩ := run_succ_next h
    obtain ⟨hlatches', hkept⟩ := step_runOut hlatches hturns hst
    have hturns' : undisturbed t.turns := by
      rw [step_turns hst]
      exact fun turn hmem => hturns turn (List.mem_of_mem_tail hmem)
    exact (ih hlatches' hturns' htu).trans hkept

/-- Settles O41: an ended run is where the view ends it, and every undisturbed run keeps that. -/
theorem instructionLevelViewAgrees : Obligations.InstructionLevelViewAgrees := by
  intro s u hf hturns hrun hended
  have hlatches : s.LatchesOk := State.latchesOk_of_not_progress (by simp [hf]) (by simp [hf])
  have hend : u.erase = (runToEnd (s.q.length + 1) s).erase := calc
    u.erase = u.erase.runOut := (State.runOut_of_ended (s := u.erase) hended).symm
    _ = u.completed.runOut := by rw [State.completed_of_boundary (hended.imp id .inr)]
    _ = s.completed.runOut := run_runOut _ hlatches hturns hrun
    _ = runToEnd (s.q.length + 1) s.erase := by
      rw [State.completed_of_boundary (.inr (.inl hf)), State.runOut, if_pos (show s.erase.fsm = .fetch from hf)]
      rfl
    _ = (runToEnd (s.q.length + 1) s).erase := runToEnd_erase _ s
  rw [← u.observe_erase, hend, State.observe_erase]

end Sys2Proof.Machine
end
